-- ==== Sys2Proof/Word.lean ====
section
/-! DEFINITION. The machine's word types (spec/00_scope.md R11): unsigned bit vectors of stated widths. -/

namespace Sys2Proof

/-- A memory byte, an I/O byte, an 8-bit register half (R8). -/
abbrev Byte := BitVec 8

/-- A general, segment or instruction-pointer register; an offset; a port number (R8). -/
abbrev Word := BitVec 16

/-- A linear (physical) address: 20 bits, wrapping (R8, R100). -/
abbrev Linear := BitVec 20

/-- A packed 24-bit colour: red in bits 23..16, green in 15..8, blue in 7..0 (R47). -/
abbrev Rgb := BitVec 24

end Sys2Proof
end

