-- ==== Sys2Proof/Syntax.lean ====
section
/-! DEFINITION. The instructions, as syntax: registers, operand forms and the one inductive `Instr`
(spec/30_encoding.md R187, R195 to R198; spec/opcode_table.json).

One constructor for each instruction rule; the table rows of one rule that differ only in operand form,
width or register are the values of the constructor's operands (log 21). Each docstring names the rows. -/

namespace Sys2Proof

/-- The eight 16-bit general registers, codes 0 to 7 (R30). -/
inductive Reg16 where
  | ax | cx | dx | bx | sp | bp | si | di
  deriving DecidableEq, Repr

/-- The eight byte registers, codes 0 to 7 (R30). -/
inductive Reg8 where
  | al | cl | dl | bl | ah | ch | dh | bh
  deriving DecidableEq, Repr

/-- The segment registers, codes 0 to 3 (R33). -/
inductive Sreg where
  | es | cs | ss | ds
  deriving DecidableEq, Repr

/-- The register part of an effective address: the `rm` field of R181 for mod 1 and 2. -/
inductive EaBase where
  | bxsi | bxdi | bpsi | bpdi | si | di | bp | bx
  deriving DecidableEq, Repr

/-- A ModR/M memory operand (R181): mod and rm, with its displacement. -/
inductive MemOp where
  /-- mod 0, rm 6: a 16-bit displacement alone. -/
  | direct (d16 : Word)
  /-- mod 0, rm other than 6. -/
  | base (b : EaBase)
  /-- mod 1: a sign-extended 8-bit displacement. -/
  | disp8 (b : EaBase) (d8 : Byte)
  /-- mod 2: a 16-bit displacement. -/
  | disp16 (b : EaBase) (d16 : Word)
  deriving DecidableEq, Repr

/-- A ModR/M rm operand: a register (mod 3, R184) or memory. -/
inductive RM (ρ : Type) where
  | reg (r : ρ)
  | mem (m : MemOp)
  deriving DecidableEq, Repr

/-- `Eb` (R187). -/
abbrev RM8 := RM Reg8
/-- `Ew` (R187); also `M` and `Mp`, whose mod 3 form is Fatal (R199, log 25). -/
abbrev RM16 := RM Reg16

/-- `Eb` or `Ew`, for the instructions that take either. -/
inductive EOp where
  | b (rm : RM8)
  | w (rm : RM16)
  deriving DecidableEq, Repr

/-- The byte forms of the two-operand ALU instructions (R303). -/
inductive AluForm8 where
  /-- `Eb,Gb`, opcode op*8+0. -/
  | ebGb (rm : RM8) (g : Reg8)
  /-- `Gb,Eb`, opcode op*8+2. -/
  | gbEb (g : Reg8) (rm : RM8)
  /-- `AL,Ib`, opcode op*8+4. -/
  | alIb (i : Byte)
  /-- `Eb,Ib`, opcode 80 /op. -/
  | ebIb (rm : RM8) (i : Byte)
  /-- `Eb,Ib`, opcode 82 /op: the duplicate of 80 (R196, D4). -/
  | ebIbDup (rm : RM8) (i : Byte)
  deriving DecidableEq, Repr

/-- The word forms of the two-operand ALU instructions (R303). -/
inductive AluForm16 where
  /-- `Ew,Gw`, opcode op*8+1. -/
  | ewGw (rm : RM16) (g : Reg16)
  /-- `Gw,Ew`, opcode op*8+3. -/
  | gwEw (g : Reg16) (rm : RM16)
  /-- `AX,Iw`, opcode op*8+5. -/
  | axIw (i : Word)
  /-- `Ew,Iw`, opcode 81 /op. -/
  | ewIw (rm : RM16) (i : Word)
  /-- `Ew,Ibs`, opcode 83 /op: the immediate is sign-extended. -/
  | ewIbs (rm : RM16) (i : Byte)
  deriving DecidableEq, Repr

/-- The ten forms of a two-operand ALU instruction (R303). -/
inductive AluForm where
  | byte (f : AluForm8)
  | word (f : AluForm16)
  deriving DecidableEq, Repr

/-- The forms of TEST (R374): 84, 85, A8, A9, F6 /0, F7 /0. -/
inductive TestForm where
  | ebGb (rm : RM8) (g : Reg8)
  | ewGw (rm : RM16) (g : Reg16)
  | alIb (i : Byte)
  | axIw (i : Word)
  | ebIb (rm : RM8) (i : Byte)
  | ewIw (rm : RM16) (i : Word)
  deriving DecidableEq, Repr

/-- MOV 88 to 8B (R231). -/
inductive MovForm where
  | ebGb (rm : RM8) (g : Reg8)
  | ewGw (rm : RM16) (g : Reg16)
  | gbEb (g : Reg8) (rm : RM8)
  | gwEw (g : Reg16) (rm : RM16)
  deriving DecidableEq, Repr

/-- An rm operand with an immediate of its width: MOV C6 /0 and C7 /0 (R232). -/
inductive EImm where
  | b (rm : RM8) (i : Byte)
  | w (rm : RM16) (i : Word)
  deriving DecidableEq, Repr

/-- A register with an immediate of its width: MOV B0-B7 and B8-BF (R233). -/
inductive RegImm where
  | b (r : Reg8) (i : Byte)
  | w (r : Reg16) (i : Word)
  deriving DecidableEq, Repr

/-- MOV A0 to A3 (R234), with the direct offset. -/
inductive MoffsForm where
  | alOb (off : Word)
  | axOw (off : Word)
  | obAl (off : Word)
  | owAx (off : Word)
  deriving DecidableEq, Repr

/-- XCHG 86 and 87 (R243). -/
inductive XchgForm where
  | b (rm : RM8) (g : Reg8)
  | w (rm : RM16) (g : Reg16)
  deriving DecidableEq, Repr

/-- The accumulator of IN and OUT: AL or AX (R250 to R253). -/
inductive Acc where
  | al
  | ax
  deriving DecidableEq, Repr

/-- The count of a shift or rotate (R376): C0/C1, D0/D1, D2/D3. -/
inductive ShiftCount where
  | imm (i : Byte)
  | one
  | cl
  deriving DecidableEq, Repr

/-- The immediate of the three-operand IMUL (R566): 69 (Iw) or 6B (Ibs). -/
inductive ImulImm where
  | iw (i : Word)
  | ibs (i : Byte)
  deriving DecidableEq, Repr

/-- Which of the two MOV sreg opcodes a reserved code stands in (R199): 8C or 8E. -/
inductive SregMove where
  | fromSreg
  | toSreg
  deriving DecidableEq, Repr

/-- The instructions. -/
inductive Instr where
  -- prefixes (R173): one row each
  /-- 26 -/
  | prefixES
  /-- 2E -/
  | prefixCS
  /-- 36 -/
  | prefixSS
  /-- 3E -/
  | prefixDS
  /-- F0 (R528) -/
  | lock
  /-- F2 -/
  | repne
  /-- F3 -/
  | rep
  -- data transfer (40_data_transfer.md)
  /-- R231: 88, 89, 8A, 8B -/
  | mov (f : MovForm)
  /-- R232: C6 /0, C7 /0 -/
  | movEImm (f : EImm)
  /-- R233: B0-B7, B8-BF -/
  | movRegImm (f : RegImm)
  /-- R234: A0, A1, A2, A3 -/
  | movMoffs (f : MoffsForm)
  /-- R235: 8C /0 to /3 -/
  | movFromSreg (rm : RM16) (sr : Sreg)
  /-- R236: 8E /0, /2, /3 (ES, SS, DS) -/
  | movToSreg (sr : Sreg) (rm : RM16)
  /-- R236, R532: 8E /1, Fatal -/
  | movCS (rm : RM16)
  /-- R235, R236, R532: 8C and 8E with reg = 4 + k, Fatal -/
  | reservedSreg (m : SregMove) (k : BitVec 2) (rm : RM16)
  /-- R237: 50-57 -/
  | pushReg (r : Reg16)
  /-- R238: 58-5F -/
  | popReg (r : Reg16)
  /-- R239: 06, 0E, 16, 1E -/
  | pushSreg (sr : Sreg)
  /-- R240: 07, 17, 1F (ES, SS, DS) -/
  | popSreg (sr : Sreg)
  /-- R241: FF /6 -/
  | pushE (rm : RM16)
  /-- R242: 8F /0 -/
  | popE (rm : RM16)
  /-- R243: 86, 87 -/
  | xchg (f : XchgForm)
  /-- R244: 91-97 -/
  | xchgAX (r : Reg16)
  /-- R245: 90 -/
  | nop
  /-- R246: 8D -/
  | lea (g : Reg16) (rm : RM16)
  /-- R247: C5 -/
  | lds (g : Reg16) (rm : RM16)
  /-- R248: C4 -/
  | les (g : Reg16) (rm : RM16)
  /-- R249: D7 -/
  | xlat
  /-- R250: E4, E5 -/
  | inImm (a : Acc) (port : Byte)
  /-- R251: EC, ED -/
  | inDX (a : Acc)
  /-- R252: E6, E7 -/
  | outImm (port : Byte) (a : Acc)
  /-- R253: EE, EF -/
  | outDX (a : Acc)
  /-- R254: 9F -/
  | lahf
  /-- R255: 9E -/
  | sahf
  /-- R256: 9C -/
  | pushf
  /-- R257: 9D -/
  | popf
  /-- R258: 98 -/
  | cbw
  /-- R259: 99 -/
  | cwd
  -- arithmetic (41_arithmetic.md)
  /-- R304: 00-05, 80-83 /0 -/
  | add (f : AluForm)
  /-- R305: 10-15, 80-83 /2 -/
  | adc (f : AluForm)
  /-- R306: 28-2D, 80-83 /5 -/
  | sub (f : AluForm)
  /-- R307: 18-1D, 80-83 /3 -/
  | sbb (f : AluForm)
  /-- R308: 38-3D, 80-83 /7 -/
  | cmp (f : AluForm)
  /-- R309: 40-47 -/
  | incReg (r : Reg16)
  /-- R309: FE /0, FF /0 -/
  | incE (e : EOp)
  /-- R310: 48-4F -/
  | decReg (r : Reg16)
  /-- R310: FE /1, FF /1 -/
  | decE (e : EOp)
  /-- R311: F6 /3, F7 /3 -/
  | neg (e : EOp)
  /-- R312: F6 /4, F7 /4 -/
  | mul (e : EOp)
  /-- R313: F6 /5, F7 /5 -/
  | imul (e : EOp)
  /-- R314: F6 /6, F7 /6 -/
  | div (e : EOp)
  /-- R315: F6 /7, F7 /7 -/
  | idiv (e : EOp)
  /-- R316: 27 -/
  | daa
  /-- R317: 2F -/
  | das
  /-- R318: 37 -/
  | aaa
  /-- R319: 3F -/
  | aas
  /-- R320: D4 -/
  | aam (i : Byte)
  /-- R321: D5 -/
  | aad (i : Byte)
  -- logic, shifts and rotates (42_logic_shift.md)
  /-- R371: 20-25, 80-83 /4 -/
  | and (f : AluForm)
  /-- R372: 08-0D, 80-83 /1 -/
  | or (f : AluForm)
  /-- R373: 30-35, 80-83 /6 -/
  | xor (f : AluForm)
  /-- R374: 84, 85, A8, A9, F6 /0, F7 /0 -/
  | test (f : TestForm)
  /-- R375: F6 /2, F7 /2 -/
  | not (e : EOp)
  /-- R378: C0, C1, D0-D3 /0 -/
  | rol (e : EOp) (c : ShiftCount)
  /-- R379: /1 -/
  | ror (e : EOp) (c : ShiftCount)
  /-- R380: /2 -/
  | rcl (e : EOp) (c : ShiftCount)
  /-- R381: /3 -/
  | rcr (e : EOp) (c : ShiftCount)
  /-- R382: /4 -/
  | shl (e : EOp) (c : ShiftCount)
  /-- R383: /5 -/
  | shr (e : EOp) (c : ShiftCount)
  /-- R384: /7 -/
  | sar (e : EOp) (c : ShiftCount)
  -- strings (43_string.md)
  /-- R422: A4 -/
  | movsb
  /-- R422: A5 -/
  | movsw
  /-- R423: A6 -/
  | cmpsb
  /-- R423: A7 -/
  | cmpsw
  /-- R424: AE -/
  | scasb
  /-- R424: AF -/
  | scasw
  /-- R425: AC -/
  | lodsb
  /-- R425: AD -/
  | lodsw
  /-- R426: AA -/
  | stosb
  /-- R426: AB -/
  | stosw
  -- control transfer (44_control_transfer.md)
  /-- R460: EB -/
  | jmpShort (rel : Byte)
  /-- R461: E9 -/
  | jmpNear (rel : Word)
  /-- R462: EA -/
  | jmpFar (off seg : Word)
  /-- R463: FF /4 -/
  | jmpE (rm : RM16)
  /-- R464: FF /5 -/
  | jmpM (rm : RM16)
  /-- R465: E8 -/
  | callNear (rel : Word)
  /-- R466: 9A -/
  | callFar (off seg : Word)
  /-- R467: FF /2 -/
  | callE (rm : RM16)
  /-- R468: FF /3 -/
  | callM (rm : RM16)
  /-- R469: C3 -/
  | ret
  /-- R470: C2 -/
  | retImm (n : Word)
  /-- R471: CB -/
  | retf
  /-- R472: CA -/
  | retfImm (n : Word)
  /-- R474: 70 -/
  | jo (rel : Byte)
  /-- R475: 71 -/
  | jno (rel : Byte)
  /-- R476: 72 -/
  | jb (rel : Byte)
  /-- R477: 73 -/
  | jnb (rel : Byte)
  /-- R478: 74 -/
  | jz (rel : Byte)
  /-- R479: 75 -/
  | jnz (rel : Byte)
  /-- R480: 76 -/
  | jbe (rel : Byte)
  /-- R481: 77 -/
  | ja (rel : Byte)
  /-- R482: 78 -/
  | js (rel : Byte)
  /-- R483: 79 -/
  | jns (rel : Byte)
  /-- R484: 7A -/
  | jp (rel : Byte)
  /-- R485: 7B -/
  | jnp (rel : Byte)
  /-- R486: 7C -/
  | jl (rel : Byte)
  /-- R487: 7D -/
  | jge (rel : Byte)
  /-- R488: 7E -/
  | jle (rel : Byte)
  /-- R489: 7F -/
  | jg (rel : Byte)
  /-- R490: E2 -/
  | loop (rel : Byte)
  /-- R491: E1 -/
  | loopz (rel : Byte)
  /-- R492: E0 -/
  | loopnz (rel : Byte)
  /-- R493: E3 -/
  | jcxz (rel : Byte)
  /-- R494: CD -/
  | int (n : Byte)
  /-- R495: CC -/
  | int3
  /-- R496: CE -/
  | into
  /-- R497: CF -/
  | iret
  -- processor control (45_processor_control.md)
  /-- R520: F8 -/
  | clc
  /-- R521: F9 -/
  | stc
  /-- R522: F5 -/
  | cmc
  /-- R523: FC -/
  | cld
  /-- R524: FD -/
  | std
  /-- R526: FA -/
  | cli
  /-- R529: FB -/
  | sti
  /-- R525: F4 -/
  | hlt
  /-- R527: 9B -/
  | wait
  /-- R530: D8-DF -/
  | esc (x : BitVec 3) (reg : BitVec 3) (rm : RM16)
  -- the 80186 extension (46_ext186.md), under EXT186
  /-- R561: 60 -/
  | pusha
  /-- R562: 61 -/
  | popa
  /-- R563: 62 -/
  | bound (g : Reg16) (rm : RM16)
  /-- R564: 68 -/
  | pushIw (i : Word)
  /-- R565: 6A -/
  | pushIbs (i : Byte)
  /-- R566: 69, 6B -/
  | imulImm (g : Reg16) (rm : RM16) (k : ImulImm)
  /-- R567: 6C -/
  | insb
  /-- R567: 6D -/
  | insw
  /-- R568: 6E -/
  | outsb
  /-- R568: 6F -/
  | outsw
  /-- R569: C8 -/
  | enter (size : Word) (level : Byte)
  /-- R570: C9 -/
  | leave
  -- unmapped encodings (R199)
  /-- R531: a Fatal one-byte opcode -/
  | undefByte (op : Byte)
  /-- R532: a Fatal group slot (opcode, reg), with its ModR/M operand -/
  | undefSlot (op : Byte) (reg : BitVec 3) (rm : RM16)
  deriving DecidableEq, Repr

/-- The seven prefix rows (R173): the instruction goes on after one of them. -/
def Instr.isPrefix : Instr → Bool
  | .prefixES | .prefixCS | .prefixSS | .prefixDS | .lock | .repne | .rep => true
  | _ => false

end Sys2Proof
end

