-- ==== Sys2Proof/WellFormed.lean ====
section
/-! DEFINITION. Which `Instr` terms are instructions of the machine: the terms some byte sequence encodes
(spec/30_encoding.md R181, R195 to R199). Each check below has an ill-formed term in Tests/Slice0.lean. -/

namespace Sys2Proof

/-- mod 0 with rm 6 is the direct form, so BP alone has no mod 0 encoding (R181). -/
def MemOp.wf : MemOp → Bool
  | .base .bp => false
  | .base _ | .direct _ | .disp8 _ _ | .disp16 _ _ => true

def RM.wf {ρ : Type} : RM ρ → Bool
  | .reg _ => true
  | .mem m => m.wf

def EOp.wf : EOp → Bool
  | .b rm => rm.wf
  | .w rm => rm.wf

def AluForm8.wf : AluForm8 → Bool
  | .ebGb rm _ | .gbEb _ rm | .ebIb rm _ | .ebIbDup rm _ => rm.wf
  | .alIb _ => true

def AluForm16.wf : AluForm16 → Bool
  | .ewGw rm _ | .gwEw _ rm | .ewIw rm _ | .ewIbs rm _ => rm.wf
  | .axIw _ => true

def AluForm.wf : AluForm → Bool
  | .byte f => f.wf
  | .word f => f.wf

def TestForm.wf : TestForm → Bool
  | .ebGb rm _ | .ebIb rm _ => rm.wf
  | .ewGw rm _ | .ewIw rm _ => rm.wf
  | .alIb _ | .axIw _ => true

def MovForm.wf : MovForm → Bool
  | .ebGb rm _ | .gbEb _ rm => rm.wf
  | .ewGw rm _ | .gwEw _ rm => rm.wf

def EImm.wf : EImm → Bool
  | .b rm _ => rm.wf
  | .w rm _ => rm.wf

def XchgForm.wf : XchgForm → Bool
  | .b rm _ => rm.wf
  | .w rm _ => rm.wf

/-- The opcodes that exist only under `EXT186` (R560). -/
def isExt186Op (op : Byte) : Bool :=
  op ∈ [0x60#8, 0x61#8, 0x62#8, 0x68#8, 0x69#8, 0x6A#8, 0x6B#8, 0x6C#8, 0x6D#8, 0x6E#8, 0x6F#8, 0xC8#8, 0xC9#8]

/-- The Fatal one-byte opcodes (R199, R531): eight always, and the 80186 ones while `EXT186` is false. -/
def isUndefByte (ext186 : Bool) (op : Byte) : Bool :=
  op ∈ [0x0F#8, 0x63#8, 0x64#8, 0x65#8, 0x66#8, 0x67#8, 0xD6#8, 0xF1#8] || (!ext186 && isExt186Op op)

/-- The group slots marked F in R197 and R198. -/
def isUndefSlot (op : Byte) (reg : BitVec 3) : Bool :=
  (op ∈ [0xC0#8, 0xC1#8, 0xD0#8, 0xD1#8, 0xD2#8, 0xD3#8] && reg == 6#3) ||
  (op ∈ [0xF6#8, 0xF7#8] && reg == 1#3) ||
  (op == 0xFE#8 && 2#3 ≤ reg) ||
  (op == 0xFF#8 && reg == 7#3) ||
  (op ∈ [0x8F#8, 0xC6#8, 0xC7#8] && reg != 0#3)

/-- The instructions that exist when the parameter `EXT186` has the given value. -/
def Instr.wf (ext186 : Bool) : Instr → Bool
  | .prefixES | .prefixCS | .prefixSS | .prefixDS | .lock | .repne | .rep => true
  | .mov f => f.wf
  | .movEImm f => f.wf
  | .movRegImm _ | .movMoffs _ => true
  | .movFromSreg rm _ => rm.wf
  | .movToSreg sr rm => sr != .cs && rm.wf
  | .movCS rm | .reservedSreg _ _ rm => rm.wf
  | .pushReg _ | .popReg _ | .pushSreg _ => true
  | .popSreg sr => sr != .cs
  | .pushE rm | .popE rm => rm.wf
  | .xchg f => f.wf
  | .xchgAX r => r != .ax
  | .nop => true
  | .lea _ rm | .lds _ rm | .les _ rm => rm.wf
  | .xlat | .inImm _ _ | .inDX _ | .outImm _ _ | .outDX _ => true
  | .lahf | .sahf | .pushf | .popf | .cbw | .cwd => true
  | .add f | .adc f | .sub f | .sbb f | .cmp f => f.wf
  | .incReg _ | .decReg _ => true
  | .incE e | .decE e | .neg e | .mul e | .imul e | .div e | .idiv e => e.wf
  | .daa | .das | .aaa | .aas | .aam _ | .aad _ => true
  | .and f | .or f | .xor f => f.wf
  | .test f => f.wf
  | .not e => e.wf
  | .rol e _ | .ror e _ | .rcl e _ | .rcr e _ | .shl e _ | .shr e _ | .sar e _ => e.wf
  | .movsb | .movsw | .cmpsb | .cmpsw | .scasb | .scasw | .lodsb | .lodsw | .stosb | .stosw => true
  | .jmpShort _ | .jmpNear _ | .jmpFar _ _ => true
  | .jmpE rm | .jmpM rm => rm.wf
  | .callNear _ | .callFar _ _ => true
  | .callE rm | .callM rm => rm.wf
  | .ret | .retImm _ | .retf | .retfImm _ => true
  | .jo _ | .jno _ | .jb _ | .jnb _ | .jz _ | .jnz _ | .jbe _ | .ja _ => true
  | .js _ | .jns _ | .jp _ | .jnp _ | .jl _ | .jge _ | .jle _ | .jg _ => true
  | .loop _ | .loopz _ | .loopnz _ | .jcxz _ => true
  | .int _ | .int3 | .into | .iret => true
  | .clc | .stc | .cmc | .cld | .std | .cli | .sti | .hlt | .wait => true
  | .esc _ _ rm => rm.wf
  | .pusha | .popa | .pushIw _ | .pushIbs _ | .insb | .insw | .outsb | .outsw | .enter _ _ | .leave => ext186
  | .bound _ rm | .imulImm _ rm _ => ext186 && rm.wf
  | .undefByte op => isUndefByte ext186 op
  | .undefSlot op reg rm => isUndefSlot op reg && rm.wf

end Sys2Proof
end

