-- ==== Sys2Proof/Decode.lean ====
section
/-! DEFINITION. The decoder, total on any bytes, and after it the encoder (spec/30_encoding.md R172 to R201).

`decode` reads one unit: a prefix byte, or an opcode with its ModR/M, displacement and immediate. R173's
prefix loop is the machine's (Machine/Cycle.lean). An 8086 opcode is three octal digits, `q x y`:
opcode = 64 q + 8 x + y; the arms below carry the hex value of R195's map beside them. -/

namespace Sys2Proof

/-- Why a byte sequence is no instruction: every complete one is (R195 maps all 256 opcodes). -/
inductive DecodeError where
  /-- The bytes end before the instruction does. -/
  | truncated
  deriving DecidableEq, Repr

/-- A parser: what it reads from the front of the bytes, and the rest. -/
abbrev Parser (α : Type) := List Byte → Except DecodeError (α × List Byte)

/-- An octal digit: a 3-bit field. -/
inductive Oct where
  | o0 | o1 | o2 | o3 | o4 | o5 | o6 | o7
  deriving DecidableEq, Repr

def Oct.ofBits (b : BitVec 3) : Oct :=
  match b.toNat with
  | 0 => .o0 | 1 => .o1 | 2 => .o2 | 3 => .o3 | 4 => .o4 | 5 => .o5 | 6 => .o6 | _ => .o7

/-- Bits 5..3 and 2..0 of an opcode or ModR/M byte (R180). -/
def octMid (b : Byte) : Oct := .ofBits (b.extractLsb' 3 3)
def octLow (b : Byte) : Oct := .ofBits (b.extractLsb' 0 3)

/-- The register with a 3-bit code (R30). -/
def Reg16.ofOct : Oct → Reg16
  | .o0 => .ax | .o1 => .cx | .o2 => .dx | .o3 => .bx | .o4 => .sp | .o5 => .bp | .o6 => .si | .o7 => .di

def Reg8.ofOct : Oct → Reg8
  | .o0 => .al | .o1 => .cl | .o2 => .dl | .o3 => .bl | .o4 => .ah | .o5 => .ch | .o6 => .dh | .o7 => .bh

/-- The base of an effective address by its `rm` code (R181). -/
def EaBase.ofOct : Oct → EaBase
  | .o0 => .bxsi | .o1 => .bxdi | .o2 => .bpsi | .o3 => .bpdi | .o4 => .si | .o5 => .di | .o6 => .bp | .o7 => .bx

/-! ## Bytes, words, ModR/M -/

/-- One byte (`Ib`, `Ibs`, `Jb`: R190). -/
def byte : Parser Byte
  | b :: rest => .ok (b, rest)
  | [] => .error .truncated

/-- One little-endian word (`Iw`, `Jw`, `Ob`, `Ow`: R190, R107). -/
def word : Parser Word
  | lo :: hi :: rest => .ok (hi ++ lo, rest)
  | _ => .error .truncated

/-- Read with `p`, then build with `f`. -/
def Parser.map {α β : Type} (p : Parser α) (f : α → β) : Parser β := fun bytes =>
  match p bytes with
  | .ok (a, rest) => .ok (f a, rest)
  | .error e => .error e

/-- Read with `p`, then go on with the parser it chooses. -/
def Parser.bind {α β : Type} (p : Parser α) (f : α → Parser β) : Parser β := fun bytes =>
  match p bytes with
  | .ok (a, rest) => f a rest
  | .error e => .error e

/-- Read nothing. -/
def Parser.pure {α : Type} (a : α) : Parser α := fun bytes => .ok (a, bytes)

/-- A ModR/M byte with its displacement (R180, R181, R184): the `reg` digit and the rm operand, its
register still a digit. -/
def modRM : Parser (Oct × RM Oct) :=
  byte.bind fun b =>
    match (b.extractLsb' 6 2).toNat, octLow b with
    | 0, .o6 => word.map fun d => (octMid b, .mem (.direct d))
    | 0, rm => .pure (octMid b, .mem (.base (.ofOct rm)))
    | 1, rm => byte.map fun d => (octMid b, .mem (.disp8 (.ofOct rm) d))
    | 2, rm => word.map fun d => (octMid b, .mem (.disp16 (.ofOct rm) d))
    | _, rm => .pure (octMid b, .reg rm)

def RM.mapReg {ρ σ : Type} (f : ρ → σ) : RM ρ → RM σ
  | .reg r => .reg (f r)
  | .mem m => .mem m

/-- `Eb` and `Ew` of a ModR/M (R187). -/
def asRM8 (rm : RM Oct) : RM8 := rm.mapReg Reg8.ofOct
def asRM16 (rm : RM Oct) : RM16 := rm.mapReg Reg16.ofOct

/-! ## The opcode map (R195 to R199) -/

/-- A two-operand ALU instruction by its op code (R303, R196). -/
def aluInstr : Oct → AluForm → Instr
  | .o0 => .add | .o1 => .or | .o2 => .adc | .o3 => .sbb | .o4 => .and | .o5 => .sub | .o6 => .xor | .o7 => .cmp

/-- A shift or rotate by its `reg` code (R197); code 6 is Fatal. -/
def shiftInstr : Oct → Option (EOp → ShiftCount → Instr)
  | .o0 => some .rol | .o1 => some .ror | .o2 => some .rcl | .o3 => some .rcr
  | .o4 => some .shl | .o5 => some .shr | .o6 => none | .o7 => some .sar

def Oct.toBits : Oct → BitVec 3
  | .o0 => 0 | .o1 => 1 | .o2 => 2 | .o3 => 3 | .o4 => 4 | .o5 => 5 | .o6 => 6 | .o7 => 7

/-- The Fatal group slot (R532). -/
def undefSlotAt (op : Byte) (reg : Oct) (rm : RM Oct) : Instr := .undefSlot op reg.toBits (asRM16 rm)

/-- Group 2 with a count of 1 or CL (D0 to D3), at the width `e` gives. -/
def shiftGroup (op : Byte) (e : RM Oct → EOp) (c : ShiftCount) : Parser Instr :=
  modRM.map fun (reg, rm) =>
    match shiftInstr reg with
    | some i => i (e rm) c
    | none => undefSlotAt op reg rm

/-- Group 2 with an immediate count (C0, C1): a Fatal slot has no immediate (R199). -/
def shiftGroupImm (op : Byte) (e : RM Oct → EOp) : Parser Instr :=
  modRM.bind fun (reg, rm) =>
    match shiftInstr reg with
    | some i => byte.map fun n => i (e rm) (.imm n)
    | none => .pure (undefSlotAt op reg rm)

/-- `Eb` and `Ew` as either-width operands. -/
def eb (rm : RM Oct) : EOp := .b (asRM8 rm)
def ew (rm : RM Oct) : EOp := .w (asRM16 rm)

/-- Group 3 but for TEST (F6, F7: R198). -/
def unaryGroup (op : Byte) (e : RM Oct → EOp) (reg : Oct) (rm : RM Oct) : Instr :=
  match reg with
  | .o2 => .not (e rm) | .o3 => .neg (e rm) | .o4 => .mul (e rm) | .o5 => .imul (e rm)
  | .o6 => .div (e rm) | .o7 => .idiv (e rm)
  | .o0 | .o1 => undefSlotAt op reg rm

/-- 8C and 8E by their `reg` code (R199, R235, R236). -/
def movFromSregAt : Oct → RM16 → Instr
  | .o0, rm => .movFromSreg rm .es | .o1, rm => .movFromSreg rm .cs
  | .o2, rm => .movFromSreg rm .ss | .o3, rm => .movFromSreg rm .ds
  | .o4, rm => .reservedSreg .fromSreg 0 rm | .o5, rm => .reservedSreg .fromSreg 1 rm
  | .o6, rm => .reservedSreg .fromSreg 2 rm | .o7, rm => .reservedSreg .fromSreg 3 rm

def movToSregAt : Oct → RM16 → Instr
  | .o0, rm => .movToSreg .es rm | .o1, rm => .movCS rm
  | .o2, rm => .movToSreg .ss rm | .o3, rm => .movToSreg .ds rm
  | .o4, rm => .reservedSreg .toSreg 0 rm | .o5, rm => .reservedSreg .toSreg 1 rm
  | .o6, rm => .reservedSreg .toSreg 2 rm | .o7, rm => .reservedSreg .toSreg 3 rm

/-- Opcodes 00 to 3F: the ALU forms, segment pushes and pops, the segment prefixes, the BCD adjusts. -/
def decode00 (op : Byte) : Oct → Oct → Parser Instr
  | x, .o0 => modRM.map fun (g, rm) => aluInstr x (.byte (.ebGb (asRM8 rm) (.ofOct g)))
  | x, .o1 => modRM.map fun (g, rm) => aluInstr x (.word (.ewGw (asRM16 rm) (.ofOct g)))
  | x, .o2 => modRM.map fun (g, rm) => aluInstr x (.byte (.gbEb (.ofOct g) (asRM8 rm)))
  | x, .o3 => modRM.map fun (g, rm) => aluInstr x (.word (.gwEw (.ofOct g) (asRM16 rm)))
  | x, .o4 => byte.map fun i => aluInstr x (.byte (.alIb i))
  | x, .o5 => word.map fun i => aluInstr x (.word (.axIw i))
  | .o0, .o6 => .pure (.pushSreg .es)        -- 06
  | .o0, .o7 => .pure (.popSreg .es)         -- 07
  | .o1, .o6 => .pure (.pushSreg .cs)        -- 0E
  | .o1, .o7 => .pure (.undefByte op)        -- 0F
  | .o2, .o6 => .pure (.pushSreg .ss)        -- 16
  | .o2, .o7 => .pure (.popSreg .ss)         -- 17
  | .o3, .o6 => .pure (.pushSreg .ds)        -- 1E
  | .o3, .o7 => .pure (.popSreg .ds)         -- 1F
  | .o4, .o6 => .pure .prefixES              -- 26
  | .o4, .o7 => .pure .daa                   -- 27
  | .o5, .o6 => .pure .prefixCS              -- 2E
  | .o5, .o7 => .pure .das                   -- 2F
  | .o6, .o6 => .pure .prefixSS              -- 36
  | .o6, .o7 => .pure .aaa                   -- 37
  | .o7, .o6 => .pure .prefixDS              -- 3E
  | .o7, .o7 => .pure .aas                   -- 3F

/-- The 80186 opcodes 60 to 6F, when they exist (R560). -/
def decode60 (op : Byte) : Oct → Parser Instr
  | .o0 => .pure .pusha                                                       -- 60
  | .o1 => .pure .popa                                                        -- 61
  | .o2 => modRM.map fun (g, rm) => .bound (.ofOct g) (asRM16 rm)             -- 62
  | .o3 | .o4 | .o5 | .o6 | .o7 => .pure (.undefByte op)                      -- 63-67

def decode68 : Oct → Parser Instr
  | .o0 => word.map .pushIw                                                   -- 68
  | .o1 => modRM.bind fun (g, rm) => word.map fun k => .imulImm (.ofOct g) (asRM16 rm) (.iw k)   -- 69
  | .o2 => byte.map .pushIbs                                                  -- 6A
  | .o3 => modRM.bind fun (g, rm) => byte.map fun k => .imulImm (.ofOct g) (asRM16 rm) (.ibs k)  -- 6B
  | .o4 => .pure .insb                                                        -- 6C
  | .o5 => .pure .insw                                                        -- 6D
  | .o6 => .pure .outsb                                                       -- 6E
  | .o7 => .pure .outsw                                                       -- 6F

/-- Opcodes 40 to 7F. -/
def decode40 (ext186 : Bool) (op : Byte) : Oct → Oct → Parser Instr
  | .o0, r => .pure (.incReg (.ofOct r))     -- 40-47
  | .o1, r => .pure (.decReg (.ofOct r))     -- 48-4F
  | .o2, r => .pure (.pushReg (.ofOct r))    -- 50-57
  | .o3, r => .pure (.popReg (.ofOct r))     -- 58-5F
  | .o4, y => if ext186 then decode60 op y else .pure (.undefByte op)   -- 60-67
  | .o5, y => if ext186 then decode68 y else .pure (.undefByte op)      -- 68-6F
  | .o6, .o0 => byte.map .jo                 -- 70
  | .o6, .o1 => byte.map .jno                -- 71
  | .o6, .o2 => byte.map .jb                 -- 72
  | .o6, .o3 => byte.map .jnb                -- 73
  | .o6, .o4 => byte.map .jz                 -- 74
  | .o6, .o5 => byte.map .jnz                -- 75
  | .o6, .o6 => byte.map .jbe                -- 76
  | .o6, .o7 => byte.map .ja                 -- 77
  | .o7, .o0 => byte.map .js                 -- 78
  | .o7, .o1 => byte.map .jns                -- 79
  | .o7, .o2 => byte.map .jp                 -- 7A
  | .o7, .o3 => byte.map .jnp                -- 7B
  | .o7, .o4 => byte.map .jl                 -- 7C
  | .o7, .o5 => byte.map .jge                -- 7D
  | .o7, .o6 => byte.map .jle                -- 7E
  | .o7, .o7 => byte.map .jg                 -- 7F

/-- Opcodes 80 to BF. -/
def decode80 (op : Byte) : Oct → Oct → Parser Instr
  | .o0, .o0 => modRM.bind fun (x, rm) => byte.map fun i => aluInstr x (.byte (.ebIb (asRM8 rm) i))      -- 80
  | .o0, .o1 => modRM.bind fun (x, rm) => word.map fun i => aluInstr x (.word (.ewIw (asRM16 rm) i))     -- 81
  | .o0, .o2 => modRM.bind fun (x, rm) => byte.map fun i => aluInstr x (.byte (.ebIbDup (asRM8 rm) i))   -- 82
  | .o0, .o3 => modRM.bind fun (x, rm) => byte.map fun i => aluInstr x (.word (.ewIbs (asRM16 rm) i))    -- 83
  | .o0, .o4 => modRM.map fun (g, rm) => .test (.ebGb (asRM8 rm) (.ofOct g))    -- 84
  | .o0, .o5 => modRM.map fun (g, rm) => .test (.ewGw (asRM16 rm) (.ofOct g))   -- 85
  | .o0, .o6 => modRM.map fun (g, rm) => .xchg (.b (asRM8 rm) (.ofOct g))       -- 86
  | .o0, .o7 => modRM.map fun (g, rm) => .xchg (.w (asRM16 rm) (.ofOct g))      -- 87
  | .o1, .o0 => modRM.map fun (g, rm) => .mov (.ebGb (asRM8 rm) (.ofOct g))     -- 88
  | .o1, .o1 => modRM.map fun (g, rm) => .mov (.ewGw (asRM16 rm) (.ofOct g))    -- 89
  | .o1, .o2 => modRM.map fun (g, rm) => .mov (.gbEb (.ofOct g) (asRM8 rm))     -- 8A
  | .o1, .o3 => modRM.map fun (g, rm) => .mov (.gwEw (.ofOct g) (asRM16 rm))    -- 8B
  | .o1, .o4 => modRM.map fun (k, rm) => movFromSregAt k (asRM16 rm)            -- 8C
  | .o1, .o5 => modRM.map fun (g, rm) => .lea (.ofOct g) (asRM16 rm)            -- 8D
  | .o1, .o6 => modRM.map fun (k, rm) => movToSregAt k (asRM16 rm)              -- 8E
  | .o1, .o7 => modRM.map fun (k, rm) => if k = .o0 then .popE (asRM16 rm) else undefSlotAt op k rm   -- 8F
  | .o2, .o0 => .pure .nop                   -- 90
  | .o2, r => .pure (.xchgAX (.ofOct r))     -- 91-97
  | .o3, .o0 => .pure .cbw                   -- 98
  | .o3, .o1 => .pure .cwd                   -- 99
  | .o3, .o2 => word.bind fun off => word.map fun seg => .callFar off seg       -- 9A
  | .o3, .o3 => .pure .wait                  -- 9B
  | .o3, .o4 => .pure .pushf                 -- 9C
  | .o3, .o5 => .pure .popf                  -- 9D
  | .o3, .o6 => .pure .sahf                  -- 9E
  | .o3, .o7 => .pure .lahf                  -- 9F
  | .o4, .o0 => word.map fun o => .movMoffs (.alOb o)   -- A0
  | .o4, .o1 => word.map fun o => .movMoffs (.axOw o)   -- A1
  | .o4, .o2 => word.map fun o => .movMoffs (.obAl o)   -- A2
  | .o4, .o3 => word.map fun o => .movMoffs (.owAx o)   -- A3
  | .o4, .o4 => .pure .movsb                 -- A4
  | .o4, .o5 => .pure .movsw                 -- A5
  | .o4, .o6 => .pure .cmpsb                 -- A6
  | .o4, .o7 => .pure .cmpsw                 -- A7
  | .o5, .o0 => byte.map fun i => .test (.alIb i)       -- A8
  | .o5, .o1 => word.map fun i => .test (.axIw i)       -- A9
  | .o5, .o2 => .pure .stosb                 -- AA
  | .o5, .o3 => .pure .stosw                 -- AB
  | .o5, .o4 => .pure .lodsb                 -- AC
  | .o5, .o5 => .pure .lodsw                 -- AD
  | .o5, .o6 => .pure .scasb                 -- AE
  | .o5, .o7 => .pure .scasw                 -- AF
  | .o6, r => byte.map fun i => .movRegImm (.b (.ofOct r) i)   -- B0-B7
  | .o7, r => word.map fun i => .movRegImm (.w (.ofOct r) i)   -- B8-BF

/-- Group 5 (FF: R198). -/
def group5 (op : Byte) (reg : Oct) (rm : RM Oct) : Instr :=
  match reg with
  | .o0 => .incE (ew rm) | .o1 => .decE (ew rm) | .o2 => .callE (asRM16 rm) | .o3 => .callM (asRM16 rm)
  | .o4 => .jmpE (asRM16 rm) | .o5 => .jmpM (asRM16 rm) | .o6 => .pushE (asRM16 rm)
  | .o7 => undefSlotAt op reg rm

/-- Opcodes C0 to FF. -/
def decodeC0 (ext186 : Bool) (op : Byte) : Oct → Oct → Parser Instr
  | .o0, .o0 => shiftGroupImm op eb          -- C0
  | .o0, .o1 => shiftGroupImm op ew          -- C1
  | .o0, .o2 => word.map .retImm             -- C2
  | .o0, .o3 => .pure .ret                   -- C3
  | .o0, .o4 => modRM.map fun (g, rm) => .les (.ofOct g) (asRM16 rm)            -- C4
  | .o0, .o5 => modRM.map fun (g, rm) => .lds (.ofOct g) (asRM16 rm)            -- C5
  | .o0, .o6 => modRM.bind fun (k, rm) =>                                       -- C6
      if k = .o0 then byte.map fun i => .movEImm (.b (asRM8 rm) i) else .pure (undefSlotAt op k rm)
  | .o0, .o7 => modRM.bind fun (k, rm) =>                                       -- C7
      if k = .o0 then word.map fun i => .movEImm (.w (asRM16 rm) i) else .pure (undefSlotAt op k rm)
  | .o1, .o0 => if ext186 then word.bind fun n => byte.map fun l => .enter n l else .pure (.undefByte op)   -- C8
  | .o1, .o1 => .pure (if ext186 then .leave else .undefByte op)                -- C9
  | .o1, .o2 => word.map .retfImm            -- CA
  | .o1, .o3 => .pure .retf                  -- CB
  | .o1, .o4 => .pure .int3                  -- CC
  | .o1, .o5 => byte.map .int                -- CD
  | .o1, .o6 => .pure .into                  -- CE
  | .o1, .o7 => .pure .iret                  -- CF
  | .o2, .o0 => shiftGroup op eb .one        -- D0
  | .o2, .o1 => shiftGroup op ew .one        -- D1
  | .o2, .o2 => shiftGroup op eb .cl         -- D2
  | .o2, .o3 => shiftGroup op ew .cl         -- D3
  | .o2, .o4 => byte.map .aam                -- D4
  | .o2, .o5 => byte.map .aad                -- D5
  | .o2, .o6 => .pure (.undefByte op)        -- D6
  | .o2, .o7 => .pure .xlat                  -- D7
  | .o3, x => modRM.map fun (reg, rm) => .esc x.toBits reg.toBits (asRM16 rm)   -- D8-DF
  | .o4, .o0 => byte.map .loopnz             -- E0
  | .o4, .o1 => byte.map .loopz              -- E1
  | .o4, .o2 => byte.map .loop               -- E2
  | .o4, .o3 => byte.map .jcxz               -- E3
  | .o4, .o4 => byte.map fun p => .inImm .al p    -- E4
  | .o4, .o5 => byte.map fun p => .inImm .ax p    -- E5
  | .o4, .o6 => byte.map fun p => .outImm p .al   -- E6
  | .o4, .o7 => byte.map fun p => .outImm p .ax   -- E7
  | .o5, .o0 => word.map .callNear           -- E8
  | .o5, .o1 => word.map .jmpNear            -- E9
  | .o5, .o2 => word.bind fun off => word.map fun seg => .jmpFar off seg        -- EA
  | .o5, .o3 => byte.map .jmpShort           -- EB
  | .o5, .o4 => .pure (.inDX .al)            -- EC
  | .o5, .o5 => .pure (.inDX .ax)            -- ED
  | .o5, .o6 => .pure (.outDX .al)           -- EE
  | .o5, .o7 => .pure (.outDX .ax)           -- EF
  | .o6, .o0 => .pure .lock                  -- F0
  | .o6, .o1 => .pure (.undefByte op)        -- F1
  | .o6, .o2 => .pure .repne                 -- F2
  | .o6, .o3 => .pure .rep                   -- F3
  | .o6, .o4 => .pure .hlt                   -- F4
  | .o6, .o5 => .pure .cmc                   -- F5
  | .o6, .o6 => modRM.bind fun (k, rm) =>                                       -- F6
      if k = .o0 then byte.map fun i => .test (.ebIb (asRM8 rm) i) else .pure (unaryGroup op eb k rm)
  | .o6, .o7 => modRM.bind fun (k, rm) =>                                       -- F7
      if k = .o0 then word.map fun i => .test (.ewIw (asRM16 rm) i) else .pure (unaryGroup op ew k rm)
  | .o7, .o0 => .pure .clc                   -- F8
  | .o7, .o1 => .pure .stc                   -- F9
  | .o7, .o2 => .pure .cli                   -- FA
  | .o7, .o3 => .pure .sti                   -- FB
  | .o7, .o4 => .pure .cld                   -- FC
  | .o7, .o5 => .pure .std                   -- FD
  | .o7, .o6 => modRM.map fun (k, rm) =>                                        -- FE
      match k with
      | .o0 => .incE (eb rm)
      | .o1 => .decE (eb rm)
      | _ => undefSlotAt op k rm
  | .o7, .o7 => modRM.map fun (k, rm) => group5 op k rm                         -- FF

/-- The rest of an instruction whose first byte is `op` (R195). -/
def decodeOp (ext186 : Bool) (op : Byte) : Parser Instr :=
  match (op.extractLsb' 6 2).toNat with
  | 0 => decode00 op (octMid op) (octLow op)
  | 1 => decode40 ext186 op (octMid op) (octLow op)
  | 2 => decode80 op (octMid op) (octLow op)
  | _ => decodeC0 ext186 op (octMid op) (octLow op)

/-- One prefix or one instruction from the front of the bytes, and the bytes after it. -/
def decode (ext186 : Bool) : Parser Instr := byte.bind (decodeOp ext186)

/-! ## The encoder -/

def Reg16.code : Reg16 → BitVec 3
  | .ax => 0 | .cx => 1 | .dx => 2 | .bx => 3 | .sp => 4 | .bp => 5 | .si => 6 | .di => 7

def Reg8.code : Reg8 → BitVec 3
  | .al => 0 | .cl => 1 | .dl => 2 | .bl => 3 | .ah => 4 | .ch => 5 | .dh => 6 | .bh => 7

def Sreg.code : Sreg → BitVec 2
  | .es => 0 | .cs => 1 | .ss => 2 | .ds => 3

def EaBase.code : EaBase → BitVec 3
  | .bxsi => 0 | .bxdi => 1 | .bpsi => 2 | .bpdi => 3 | .si => 4 | .di => 5 | .bp => 6 | .bx => 7

/-- A word's bytes, low first (R107). -/
def wordBytes (w : Word) : List Byte := [w.extractLsb' 0 8, w.extractLsb' 8 8]

/-- A ModR/M byte from its three fields (R180). -/
def modRMByte (mod : BitVec 2) (reg rm : BitVec 3) : Byte := mod ++ reg ++ rm

/-- The ModR/M byte and displacement of a memory operand (R181). -/
def MemOp.encode (reg : BitVec 3) : MemOp → List Byte
  | .direct d => modRMByte 0 reg 6 :: wordBytes d
  | .base b => [modRMByte 0 reg b.code]
  | .disp8 b d => [modRMByte 1 reg b.code, d]
  | .disp16 b d => modRMByte 2 reg b.code :: wordBytes d

def RM8.encode (reg : BitVec 3) : RM8 → List Byte
  | .reg r => [modRMByte 3 reg r.code]
  | .mem m => m.encode reg

def RM16.encode (reg : BitVec 3) : RM16 → List Byte
  | .reg r => [modRMByte 3 reg r.code]
  | .mem m => m.encode reg

/-- An ALU form, given the op code (R303, R196). -/
def AluForm.encode (op : BitVec 3) : AluForm → List Byte
  | .byte (.ebGb rm g) => (0#2 ++ op ++ 0#3) :: RM8.encode g.code rm
  | .word (.ewGw rm g) => (0#2 ++ op ++ 1#3) :: RM16.encode g.code rm
  | .byte (.gbEb g rm) => (0#2 ++ op ++ 2#3) :: RM8.encode g.code rm
  | .word (.gwEw g rm) => (0#2 ++ op ++ 3#3) :: RM16.encode g.code rm
  | .byte (.alIb i) => [0#2 ++ op ++ 4#3, i]
  | .word (.axIw i) => (0#2 ++ op ++ 5#3) :: wordBytes i
  | .byte (.ebIb rm i) => 0x80#8 :: (RM8.encode op rm ++ [i])
  | .word (.ewIw rm i) => 0x81#8 :: (RM16.encode op rm ++ wordBytes i)
  | .byte (.ebIbDup rm i) => 0x82#8 :: (RM8.encode op rm ++ [i])
  | .word (.ewIbs rm i) => 0x83#8 :: (RM16.encode op rm ++ [i])

def EOp.encode (opB opW : Byte) (reg : BitVec 3) : EOp → List Byte
  | .b rm => opB :: RM8.encode reg rm
  | .w rm => opW :: RM16.encode reg rm

/-- A shift or rotate, given its `reg` code (R197). -/
def shiftBytes (reg : BitVec 3) (e : EOp) : ShiftCount → List Byte
  | .imm n => e.encode 0xC0#8 0xC1#8 reg ++ [n]
  | .one => e.encode 0xD0#8 0xD1#8 reg
  | .cl => e.encode 0xD2#8 0xD3#8 reg

/-- The bytes of an instruction (R195 to R198). -/
def encode : Instr → List Byte
  | .prefixES => [0x26#8]
  | .prefixCS => [0x2E#8]
  | .prefixSS => [0x36#8]
  | .prefixDS => [0x3E#8]
  | .lock => [0xF0#8]
  | .repne => [0xF2#8]
  | .rep => [0xF3#8]
  | .mov (.ebGb rm g) => 0x88#8 :: RM8.encode g.code rm
  | .mov (.ewGw rm g) => 0x89#8 :: RM16.encode g.code rm
  | .mov (.gbEb g rm) => 0x8A#8 :: RM8.encode g.code rm
  | .mov (.gwEw g rm) => 0x8B#8 :: RM16.encode g.code rm
  | .movEImm (.b rm i) => 0xC6#8 :: (RM8.encode 0 rm ++ [i])
  | .movEImm (.w rm i) => 0xC7#8 :: (RM16.encode 0 rm ++ wordBytes i)
  | .movRegImm (.b r i) => [0b10110#5 ++ r.code, i]
  | .movRegImm (.w r i) => (0b10111#5 ++ r.code) :: wordBytes i
  | .movMoffs (.alOb o) => 0xA0#8 :: wordBytes o
  | .movMoffs (.axOw o) => 0xA1#8 :: wordBytes o
  | .movMoffs (.obAl o) => 0xA2#8 :: wordBytes o
  | .movMoffs (.owAx o) => 0xA3#8 :: wordBytes o
  | .movFromSreg rm sr => 0x8C#8 :: RM16.encode (0#1 ++ sr.code) rm
  | .movToSreg sr rm => 0x8E#8 :: RM16.encode (0#1 ++ sr.code) rm
  | .movCS rm => 0x8E#8 :: RM16.encode 1 rm
  | .reservedSreg .fromSreg k rm => 0x8C#8 :: RM16.encode (1#1 ++ k) rm
  | .reservedSreg .toSreg k rm => 0x8E#8 :: RM16.encode (1#1 ++ k) rm
  | .pushReg r => [0b01010#5 ++ r.code]
  | .popReg r => [0b01011#5 ++ r.code]
  | .pushSreg sr => [0b000#3 ++ sr.code ++ 0b110#3]
  | .popSreg sr => [0b000#3 ++ sr.code ++ 0b111#3]
  | .pushE rm => 0xFF#8 :: RM16.encode 6 rm
  | .popE rm => 0x8F#8 :: RM16.encode 0 rm
  | .xchg (.b rm g) => 0x86#8 :: RM8.encode g.code rm
  | .xchg (.w rm g) => 0x87#8 :: RM16.encode g.code rm
  | .xchgAX r => [0b10010#5 ++ r.code]
  | .nop => [0x90#8]
  | .lea g rm => 0x8D#8 :: RM16.encode g.code rm
  | .lds g rm => 0xC5#8 :: RM16.encode g.code rm
  | .les g rm => 0xC4#8 :: RM16.encode g.code rm
  | .xlat => [0xD7#8]
  | .inImm .al p => [0xE4#8, p]
  | .inImm .ax p => [0xE5#8, p]
  | .inDX .al => [0xEC#8]
  | .inDX .ax => [0xED#8]
  | .outImm p .al => [0xE6#8, p]
  | .outImm p .ax => [0xE7#8, p]
  | .outDX .al => [0xEE#8]
  | .outDX .ax => [0xEF#8]
  | .lahf => [0x9F#8]
  | .sahf => [0x9E#8]
  | .pushf => [0x9C#8]
  | .popf => [0x9D#8]
  | .cbw => [0x98#8]
  | .cwd => [0x99#8]
  | .add f => f.encode 0
  | .or f => f.encode 1
  | .adc f => f.encode 2
  | .sbb f => f.encode 3
  | .and f => f.encode 4
  | .sub f => f.encode 5
  | .xor f => f.encode 6
  | .cmp f => f.encode 7
  | .incReg r => [0b01000#5 ++ r.code]
  | .decReg r => [0b01001#5 ++ r.code]
  | .incE e => e.encode 0xFE#8 0xFF#8 0
  | .decE e => e.encode 0xFE#8 0xFF#8 1
  | .not e => e.encode 0xF6#8 0xF7#8 2
  | .neg e => e.encode 0xF6#8 0xF7#8 3
  | .mul e => e.encode 0xF6#8 0xF7#8 4
  | .imul e => e.encode 0xF6#8 0xF7#8 5
  | .div e => e.encode 0xF6#8 0xF7#8 6
  | .idiv e => e.encode 0xF6#8 0xF7#8 7
  | .daa => [0x27#8]
  | .das => [0x2F#8]
  | .aaa => [0x37#8]
  | .aas => [0x3F#8]
  | .aam i => [0xD4#8, i]
  | .aad i => [0xD5#8, i]
  | .test (.ebGb rm g) => 0x84#8 :: RM8.encode g.code rm
  | .test (.ewGw rm g) => 0x85#8 :: RM16.encode g.code rm
  | .test (.alIb i) => [0xA8#8, i]
  | .test (.axIw i) => 0xA9#8 :: wordBytes i
  | .test (.ebIb rm i) => 0xF6#8 :: (RM8.encode 0 rm ++ [i])
  | .test (.ewIw rm i) => 0xF7#8 :: (RM16.encode 0 rm ++ wordBytes i)
  | .rol e c => shiftBytes 0 e c
  | .ror e c => shiftBytes 1 e c
  | .rcl e c => shiftBytes 2 e c
  | .rcr e c => shiftBytes 3 e c
  | .shl e c => shiftBytes 4 e c
  | .shr e c => shiftBytes 5 e c
  | .sar e c => shiftBytes 7 e c
  | .movsb => [0xA4#8]
  | .movsw => [0xA5#8]
  | .cmpsb => [0xA6#8]
  | .cmpsw => [0xA7#8]
  | .stosb => [0xAA#8]
  | .stosw => [0xAB#8]
  | .lodsb => [0xAC#8]
  | .lodsw => [0xAD#8]
  | .scasb => [0xAE#8]
  | .scasw => [0xAF#8]
  | .jmpShort d => [0xEB#8, d]
  | .jmpNear d => 0xE9#8 :: wordBytes d
  | .jmpFar off seg => 0xEA#8 :: (wordBytes off ++ wordBytes seg)
  | .jmpE rm => 0xFF#8 :: RM16.encode 4 rm
  | .jmpM rm => 0xFF#8 :: RM16.encode 5 rm
  | .callNear d => 0xE8#8 :: wordBytes d
  | .callFar off seg => 0x9A#8 :: (wordBytes off ++ wordBytes seg)
  | .callE rm => 0xFF#8 :: RM16.encode 2 rm
  | .callM rm => 0xFF#8 :: RM16.encode 3 rm
  | .ret => [0xC3#8]
  | .retImm n => 0xC2#8 :: wordBytes n
  | .retf => [0xCB#8]
  | .retfImm n => 0xCA#8 :: wordBytes n
  | .jo d => [0x70#8, d]
  | .jno d => [0x71#8, d]
  | .jb d => [0x72#8, d]
  | .jnb d => [0x73#8, d]
  | .jz d => [0x74#8, d]
  | .jnz d => [0x75#8, d]
  | .jbe d => [0x76#8, d]
  | .ja d => [0x77#8, d]
  | .js d => [0x78#8, d]
  | .jns d => [0x79#8, d]
  | .jp d => [0x7A#8, d]
  | .jnp d => [0x7B#8, d]
  | .jl d => [0x7C#8, d]
  | .jge d => [0x7D#8, d]
  | .jle d => [0x7E#8, d]
  | .jg d => [0x7F#8, d]
  | .loopnz d => [0xE0#8, d]
  | .loopz d => [0xE1#8, d]
  | .loop d => [0xE2#8, d]
  | .jcxz d => [0xE3#8, d]
  | .int3 => [0xCC#8]
  | .int n => [0xCD#8, n]
  | .into => [0xCE#8]
  | .iret => [0xCF#8]
  | .clc => [0xF8#8]
  | .stc => [0xF9#8]
  | .cmc => [0xF5#8]
  | .cld => [0xFC#8]
  | .std => [0xFD#8]
  | .cli => [0xFA#8]
  | .sti => [0xFB#8]
  | .hlt => [0xF4#8]
  | .wait => [0x9B#8]
  | .esc x reg rm => (0b11011#5 ++ x) :: RM16.encode reg rm
  | .pusha => [0x60#8]
  | .popa => [0x61#8]
  | .bound g rm => 0x62#8 :: RM16.encode g.code rm
  | .pushIw i => 0x68#8 :: wordBytes i
  | .imulImm g rm (.iw k) => 0x69#8 :: (RM16.encode g.code rm ++ wordBytes k)
  | .pushIbs i => [0x6A#8, i]
  | .imulImm g rm (.ibs k) => 0x6B#8 :: (RM16.encode g.code rm ++ [k])
  | .insb => [0x6C#8]
  | .insw => [0x6D#8]
  | .outsb => [0x6E#8]
  | .outsw => [0x6F#8]
  | .enter n l => 0xC8#8 :: (wordBytes n ++ [l])
  | .leave => [0xC9#8]
  | .undefByte op => [op]
  | .undefSlot op reg rm => op :: RM16.encode reg rm

/-! ## The opcode table's words -/

/-- The bytes of a table word of `nbits` bits. The table writes a two-byte row as `byte0 << 8 | modrm`
(R207), so the first byte of the instruction is the most significant one (log 12). -/
def tableBytes (nbits w : Nat) : List Byte :=
  (List.range (nbits / 8)).reverse.map fun k => BitVec.ofNat 8 (w / 2 ^ (8 * k))

/-- The longest instruction after its prefixes has six bytes (R172). -/
def maxUnitBytes : Nat := 6

/-- A table word's bytes with the zeros after them. -/
def tableUnit (nbits w : Nat) : List Byte := tableBytes nbits w ++ List.replicate maxUnitBytes 0x00#8

/-- The instruction the decoder reads from a table word, the 80186 opcodes present. -/
def decodeTableWord (nbits w : Nat) : Option Instr :=
  match decode true (tableUnit nbits w) with
  | .ok (i, _) => some i
  | .error _ => none

end Sys2Proof
end

