-- ==== Sys2Proof/Config.lean ====
section
/-! DEFINITION. The launch parameters of spec/00_scope.md R9, and the free values of R14 (`Draw_N`). -/

namespace Sys2Proof

/-- `Draw_1()` (R14): the k-th free bit. It has no body: nothing can be proved of its value (log 6). -/
opaque Config.drawBit : Nat → Bool

/-- `Draw_8()` (R14): the k-th free byte (log 6). -/
opaque Config.drawByte : Nat → Byte

/-- `Draw_16()` (R14): the k-th free word (log 6). -/
opaque Config.drawWord : Nat → Word

/-- `DISK_ERR_NOT_INSERTED` (R608, D38): OPEN, so the launch value is a constant with no body (log 5). -/
opaque Config.diskErrNotInserted : Byte

/-- `DISK_ERR_BAD_ADDRESS` (R608, D38): OPEN (log 5). -/
opaque Config.diskErrBadAddress : Byte

/-- `DISK_ERR_READ` (R609, D38): OPEN (log 5). -/
opaque Config.diskErrRead : Byte

/-- `DISK_ERR_WRITE` (R610, D38): OPEN (log 5). -/
opaque Config.diskErrWrite : Byte

/-- `PIC_OCW3_READ` (R804, D20): how OCW3 selects the register read at port 0x20. -/
inductive Ocw3Read where
  | byRisBit
  | toggle
  deriving DecidableEq, Repr

/-- The named parameters of R9 that a run is launched with. State holds them as plain data and no step
changes them, so a statement over every state holds for every value of every parameter (log 5). -/
structure Params where
  /-- `EXT186` (D2): the 80186 opcodes of 46_ext186.md exist. -/
  ext186 : Bool
  /-- `SHIFT_COUNT_MASK` (D6). -/
  shiftCountMask : Byte
  /-- `IDIV_ALLOW_MOST_NEGATIVE` (D7). -/
  idivAllowMostNegative : Bool
  /-- `FLAGS_RESERVED_IMAGE` (D15): only its reserved bits 1, 3, 5 and 12 to 15 are used (log 18). -/
  flagsReservedImage : Word
  /-- `INT10_SHORTCIRCUIT` (D19): the AH values INT 10h serves inside the block. -/
  int10ShortCircuit : List Byte
  /-- `INT13_SHORTCIRCUIT` (D19). -/
  int13ShortCircuit : Bool
  /-- `PIC_OCW3_READ` (D20). -/
  picOcw3Read : Ocw3Read
  /-- `PIC_OCW3_FALLTHROUGH` (D21). -/
  picOcw3FallThrough : Bool
  /-- `DISK_ERR_NOT_INSERTED`, `DISK_ERR_BAD_ADDRESS`, `DISK_ERR_READ`, `DISK_ERR_WRITE` (D38). -/
  diskErrNotInserted : Byte
  diskErrBadAddress : Byte
  diskErrRead : Byte
  diskErrWrite : Byte
  /-- `EXTERNAL_PORTS` (D49): ports served by external collaborators. -/
  externalPorts : List Word
  /-- The batch length of R871, the host's choice (D17): where `events` names no call of step(n), the host calls
  step(moreSlots + 1) (log 7). -/
  moreSlots : Nat
  deriving DecidableEq, Repr

/-- The defaults of R9. The OPEN disk codes are Config's constants; EXTERNAL_PORTS, OPEN too, is empty at
launch (DESIGN CHOICE, log 5); the batch length is 65536 (DESIGN CHOICE, log 7). -/
def Params.default : Params where
  ext186 := false
  shiftCountMask := 0xFF#8
  idivAllowMostNegative := false
  flagsReservedImage := 0xF002#16
  int10ShortCircuit := [0x00#8]
  int13ShortCircuit := true
  picOcw3Read := .byRisBit
  picOcw3FallThrough := false
  diskErrNotInserted := Config.diskErrNotInserted
  diskErrBadAddress := Config.diskErrBadAddress
  diskErrRead := Config.diskErrRead
  diskErrWrite := Config.diskErrWrite
  externalPorts := []
  moreSlots := 0xFFFF

/-- What a RAM byte that nothing has written reads as (INIT_RAM, OPEN; DESIGN CHOICE, log 2). -/
def Config.unwrittenRam : Byte := 0x00#8

/-- What a plane byte that nothing has written reads as (INIT_PLANES, OPEN; DESIGN CHOICE, log 3). -/
def Config.unwrittenPlane : Byte := 0x00#8

end Sys2Proof
end

