-- ==== Sys2Proof/Machine/State.lean ====
section
/-! DEFINITION. The machine's state as plain data, the reasons a step stops, and the state after power-on
(spec/10_state.md R30 to R54, spec/70_reset_and_hazards.md R850). INVENTORY.md lists every field. -/

namespace Sys2Proof.Machine

/-- Sparse data by number: RAM, planes, register files. The canonical form, which `Table.wf` states, lists
keys strictly rising and no value equal to what an unlisted key reads as. -/
abbrev Table (α : Type) := List (Nat × α)

/-! ## CPU -/

/-- The repeat slot's two values (R38): F3 and F2. -/
inductive RepPrefix where
  | repe
  | repne
  deriving DecidableEq, Repr

/-- Why `raise Fatal` ran (R14, R770). -/
inductive FatalReason where
  /-- R531, R532. -/
  | unmappedOpcode
  deriving DecidableEq, Repr

/-- The run state (R40). -/
inductive Run where
  | running
  | halted
  | fatal (r : FatalReason)
  | stopped
  deriving DecidableEq, Repr

/-- The eight general registers (R30); the byte registers are views of the first four (R31). -/
structure Regs where
  ax : Word
  cx : Word
  dx : Word
  bx : Word
  sp : Word
  bp : Word
  si : Word
  di : Word
  deriving DecidableEq, Repr

/-- The four segment registers (R33). -/
structure Sregs where
  es : Word
  cs : Word
  ss : Word
  ds : Word
  deriving DecidableEq, Repr

/-- The nine flags (R35). -/
structure Flags where
  CF : Bool
  PF : Bool
  AF : Bool
  ZF : Bool
  SF : Bool
  TF : Bool
  IF : Bool
  DF : Bool
  OF : Bool
  deriving DecidableEq, Repr

/-! ## The 8259 PIC -/

/-- `icw_step` (R43): the slot the next ICW goes to, 5 being `complete`. -/
inductive IcwStep where
  | icw2
  | icw3
  | icw4
  | complete
  deriving DecidableEq, Repr

/-- The PIC (R43). -/
structure Pic where
  irr : Byte
  isr : Byte
  imr : Byte
  icw1 : Byte
  icw2 : Byte
  icw3 : Byte
  icw4 : Byte
  step : IcwStep
  readIsr : Bool
  kbdAck : Bool
  makeupTicks : Nat
  deriving DecidableEq, Repr

/-! ## The disk table -/

/-- A drive slot (R44). `raw` tells a raw device, whose transfers may fail (R609), from an image file. -/
structure Drive where
  inserted : Bool
  raw : Bool
  backing : Table Byte
  size : Nat
  cyls : Nat
  sects : Nat
  heads : Nat
  deriving DecidableEq, Repr

/-- A slot never filled. R53 gives it `inserted = false` alone; that its backing store is empty, its size, cyls, sects
and heads 0 and its `raw` false is the model's choice (DESIGN CHOICE, log 26). Only `inserted` is read of it (R600). -/
def Drive.empty : Drive := ⟨false, false, [], 0, 0, 0, 0⟩

/-- The disk engine (R44). Unlisted drives are empty slots, unlisted statuses 0 and false. -/
structure Disk where
  drive : Table Drive
  lastAh : Table Byte
  lastCf : Table Bool
  deriving DecidableEq, Repr

/-! ## The video adapter -/

/-- The adapter family (R45). -/
inductive Family where
  | mda
  | cga
  | ega
  | vga
  deriving DecidableEq, Repr

/-- The framebuffer base (R45): 0xB8000 or 0xA0000. -/
inductive FrameBase where
  | b8000
  | a0000
  deriving DecidableEq, Repr

/-- The video mode state (R45). -/
structure VideoMode where
  number : BitVec 7
  family : Family
  text : Bool
  width : Nat
  height : Nat
  cols : Nat
  rows : Nat
  activePage : BitVec 4
  /-- (row, column) of each of the 16 pages; unlisted pages are at (0, 0). -/
  cursor : Table (Byte × Byte)
  base : FrameBase
  noblank : Bool
  deriving DecidableEq, Repr

/-- `dac_channel` (R47). -/
inductive DacChannel where
  | r
  | g
  | b
  deriving DecidableEq, Repr

/-- `dac_state` (R47). -/
inductive DacState where
  | reading
  | writing
  deriving DecidableEq, Repr

/-- The DAC (R47). -/
structure Dac where
  entries : Table Rgb
  readIndex : Byte
  writeIndex : Byte
  channel : DacChannel
  state : DacState
  deriving DecidableEq, Repr

/-- `attr_flipflop` (R48). -/
inductive FlipFlop where
  | address
  | data
  deriving DecidableEq, Repr

/-- The attribute controller (R48). -/
structure AttrCtl where
  flipflop : FlipFlop
  index : BitVec 5
  palette : Table Rgb
  attr : Table Byte
  deriving DecidableEq, Repr

/-- The four 64 KiB planes (R49). -/
structure Planes where
  p0 : Table Byte
  p1 : Table Byte
  p2 : Table Byte
  p3 : Table Byte
  deriving DecidableEq, Repr

/-- The video adapter (R45 to R49). -/
structure Video where
  mode : VideoMode
  crtcIndex : Byte
  crtc : Table Byte
  seqIndex : Byte
  seq : Table Byte
  gcIndex : Byte
  gc : Table Byte
  mdaCtrl : Byte
  cgaCtrl : Byte
  cgaPalette : Byte
  pixelMask : Byte
  dac : Dac
  attr : AttrCtl
  planes : Planes
  latch : BitVec 32
  deriving DecidableEq, Repr

/-! ## Host -/

/-- A host operation (R870), or the passing of time; HostLoop.lean says when each is due (log 7). -/
inductive HostEvent where
  /-- `step(n)` with n = more + 1 (R871): a batch begins, with its first slot. -/
  | step (more : Nat)
  /-- Time passes: the batch under way goes on by one slot, or by its boundary, before the next operation. -/
  | pass
  /-- `raise(irq)` (R810). -/
  | raise (irq : BitVec 3)
  /-- Add makeup ticks (R811). -/
  | addTicks (k : Nat)
  /-- Set `running <- false` (R862). -/
  | stop
  /-- Set `hard_reset <- true` (R860). -/
  | hardReset
  /-- `load_rom(base, bytes)` (R113). -/
  | loadRom (base : Linear) (bytes : List Byte)
  /-- `insert(d, image)` (R601): an image file of `size` bytes, those not listed being 0. -/
  | insertImage (d : Byte) (size : Nat) (contents : List (Nat × Byte))
  /-- `insert(d, raw)` (R601, R604): a raw device with the geometry the host found, of whose sects
  and heads R604 requires that they are positive (log 28). -/
  | insertRaw (d : Byte) (size cyls sects heads : Nat) (contents : List (Nat × Byte))
  /-- `eject(d)` (R601). -/
  | eject (d : Byte)
  /-- `set_boot_drive(d)` (R853). -/
  | setBootDrive (d : Byte)
  /-- Shutdown (R873): after the end of the run, every drive is ejected. -/
  | shutdown
  deriving DecidableEq, Repr

/-! ## The state -/

/-- Everything the spec gives the machine, and the model's own `events`, `params`, `draws` and `instrIP`; `batch` is
where the host's loop of R871 stands. -/
structure State where
  regs : Regs
  sregs : Sregs
  ip : Word
  flags : Flags
  /-- `seg_override` (R38). -/
  segOverride : Option Sreg
  /-- `rep` (R38). -/
  rep : Option RepPrefix
  /-- IP0: the IP of the first byte of the instruction under way (R563, log 15). -/
  instrIP : Word
  run : Run
  /-- RAM by linear address (R41); an unlisted byte reads as `Config.unwrittenRam`. -/
  ram : Table Byte
  /-- The addresses whose readonly bit is set, strictly rising (R41). -/
  readonly : List Nat
  /-- The shadow bytes by port (R42); an unlisted one is 0. -/
  shadow : Table Byte
  pic : Pic
  disk : Disk
  video : Video
  /-- The host's `running` flag (R850). -/
  hostRunning : Bool
  /-- The host's `hard_reset` flag (R850). -/
  hardReset : Bool
  bootDrive : Byte
  /-- The batch under way (R871): how many of its slots are still to come before its boundary; none between batches. -/
  batch : Option Nat
  /-- What the host does next, oldest first (log 7). -/
  events : List HostEvent
  /-- The launch parameters (R9, log 5). -/
  params : Params
  /-- How many free values the run has drawn (R14, log 6). -/
  draws : Nat
  deriving DecidableEq, Repr

/-- Why a step is a fault. -/
inductive Fault where
  /-- Raised by `step` from a state whose run is fatal (R770) with no eject or shutdown due (R873): nothing else
  happens there any more. Safe: the state at the Fatal point was answered by the step before (log 8). -/
  | fatalStop (r : FatalReason)
  deriving DecidableEq, Repr

/-- Why a step is refused. -/
inductive Refusal where
  /-- An arm of `exec` with no meaning yet. Safe. -/
  | notModelled (mnemonic : String)
  /-- Raised by INT 10h with AH = 00 and a mode the table of R652 does not list: the spec's
  `Refuse(UnlistedVideoMode)` (R651). Safe. -/
  | unlistedVideoMode (m : BitVec 7)
  /-- Raised by the fetch when the decoder answers no instruction. It cannot happen: a unit has at most six
  bytes and the fetch looks at six (R172). Safe. -/
  | undecodable
  deriving DecidableEq, Repr

/-! ## Updates: one for each field a step can change -/

def State.setRegs (s : State) (r : Regs) : State := { s with regs := r }
def State.setSregs (s : State) (r : Sregs) : State := { s with sregs := r }
def State.setIp (s : State) (v : Word) : State := { s with ip := v }
def State.setFlags (s : State) (f : Flags) : State := { s with flags := f }
def State.setSegOverride (s : State) (o : Option Sreg) : State := { s with segOverride := o }
def State.setRep (s : State) (o : Option RepPrefix) : State := { s with rep := o }
def State.setInstrIP (s : State) (v : Word) : State := { s with instrIP := v }
def State.setRun (s : State) (r : Run) : State := { s with run := r }
def State.setRam (s : State) (m : Table Byte) : State := { s with ram := m }
def State.setReadonly (s : State) (m : List Nat) : State := { s with readonly := m }
def State.setShadow (s : State) (m : Table Byte) : State := { s with shadow := m }
def State.setPic (s : State) (p : Pic) : State := { s with pic := p }
def State.setDisk (s : State) (d : Disk) : State := { s with disk := d }
def State.setVideo (s : State) (v : Video) : State := { s with video := v }
def State.setHostRunning (s : State) (b : Bool) : State := { s with hostRunning := b }
def State.setHardReset (s : State) (b : Bool) : State := { s with hardReset := b }
def State.setBootDrive (s : State) (d : Byte) : State := { s with bootDrive := d }
def State.setBatch (s : State) (b : Option Nat) : State := { s with batch := b }
def State.setEvents (s : State) (e : List HostEvent) : State := { s with events := e }
def State.setDraws (s : State) (n : Nat) : State := { s with draws := n }

/-! ## Power-on -/

/-- All nine flags clear (R50). -/
def Flags.reset : Flags := ⟨false, false, false, false, false, false, false, false, false⟩

/-- CS = 0xFFFF, the others 0 (R50). -/
def Sregs.reset : Sregs := ⟨0x0000#16, 0xFFFF#16, 0x0000#16, 0x0000#16⟩

/-- R52. -/
def Pic.reset : Pic where
  irr := 0#8
  isr := 0#8
  imr := 0#8
  icw1 := 0#8
  icw2 := 0#8
  icw3 := 0#8
  icw4 := 0#8
  step := .complete
  readIsr := false
  kbdAck := false
  makeupTicks := 0

/-- R53: every slot not inserted (its other fields: log 26), every last status 0 and false. -/
def Disk.reset : Disk := ⟨[], [], []⟩

/-- VIDEO_RESET_MODE, OPEN: the row of mode 03 (DESIGN CHOICE, log 4); the active page is R54's. -/
def VideoMode.reset : VideoMode where
  number := 0x03#7
  family := .cga
  text := true
  width := 0
  height := 0
  cols := 80
  rows := 25
  activePage := 0#4
  cursor := []
  base := .b8000
  noblank := false

/-- R54. -/
def Video.reset : Video where
  mode := .reset
  crtcIndex := 0#8
  crtc := []
  seqIndex := 0#8
  seq := [(2, 0x0F#8)]
  gcIndex := 0#8
  gc := [(8, 0xFF#8)]
  mdaCtrl := 0#8
  cgaCtrl := 0#8
  cgaPalette := 0#8
  pixelMask := 0#8
  dac := ⟨[], 0#8, 0#8, .r, .writing⟩
  attr := ⟨.address, 0#5, [], []⟩
  planes := ⟨[], [], [], []⟩
  latch := 0#32

/-- The power-on state (R850). The general registers, which R50 leaves unspecified, hold 0 (DESIGN CHOICE,
log 1); memory lists nothing (logs 2, 3); the parameters are R9's defaults (log 5). -/
def State.reset : State where
  regs := ⟨0#16, 0#16, 0#16, 0#16, 0#16, 0#16, 0#16, 0#16⟩
  sregs := .reset
  ip := 0x0000#16
  flags := .reset
  segOverride := none
  rep := none
  instrIP := 0x0000#16
  run := .running
  ram := []
  readonly := []
  shadow := []
  pic := .reset
  disk := .reset
  video := .reset
  hostRunning := true
  hardReset := false
  bootDrive := 0x00#8
  batch := none
  events := []
  params := .default
  draws := 0

end Sys2Proof.Machine
end

