-- ==== Sys2Proof/Machine/Tables.lean ====
section
/-! DEFINITION. Reading and writing the sparse tables of State in their canonical form, and the sorted list
of read-only addresses. `d` is what an unlisted key reads as. -/

namespace Sys2Proof.Machine

/-- The value at a key. -/
def Table.get {α : Type} (d : α) : Table α → Nat → α
  | [], _ => d
  | (j, v) :: rest, k => if j = k then v else Table.get d rest k

/-- The table without a key. -/
def Table.remove {α : Type} (k : Nat) (t : Table α) : Table α := t.filter (fun e => e.1 != k)

/-- The table with a key listed, in order. -/
def Table.put {α : Type} (k : Nat) (v : α) : Table α → Table α
  | [] => [(k, v)]
  | (j, w) :: rest =>
    if k < j then (k, v) :: (j, w) :: rest
    else if k = j then (k, v) :: rest
    else (j, w) :: Table.put k v rest

/-- The table with the value `v` at the key: writing what an unlisted key reads as removes the entry. -/
def Table.set {α : Type} [DecidableEq α] (d : α) (k : Nat) (v : α) (t : Table α) : Table α :=
  if v = d then t.remove k else t.put k v

/-- The canonical form with keys below `bound`: keys strictly rising, and no listed value is the default. -/
def Table.wf {α : Type} [DecidableEq α] (d : α) (bound : Nat) : Table α → Bool
  | [] => true
  | [(k, v)] => decide (k < bound) && decide (v ≠ d)
  | (k, v) :: (j, w) :: rest => decide (k < j) && decide (v ≠ d) && Table.wf d bound ((j, w) :: rest)

/-- A table from a list of entries, the later ones winning. -/
def Table.ofList {α : Type} [DecidableEq α] (d : α) (entries : List (Nat × α)) : Table α :=
  entries.foldl (fun t e => t.set d e.1 e.2) []

/-- A sorted list of numbers with one more. -/
def sortedInsert (k : Nat) : List Nat → List Nat
  | [] => [k]
  | j :: rest => if k < j then k :: j :: rest else if k = j then j :: rest else j :: sortedInsert k rest

/-- Strictly rising, below `bound`. -/
def sortedWf (bound : Nat) : List Nat → Bool
  | [] => true
  | [k] => decide (k < bound)
  | k :: j :: rest => decide (k < j) && sortedWf bound (j :: rest)

end Sys2Proof.Machine
end

