-- ==== Sys2Proof/Machine/Registers.lean ====
section
/-! DEFINITION. The registers: the 16-bit ones and their byte views (spec/10_state.md R30, R31, R33). -/

namespace Sys2Proof.Machine

/-- The low and the high byte of a word. -/
def lowByte (w : Word) : Byte := w.extractLsb' 0 8
def highByte (w : Word) : Byte := w.extractLsb' 8 8

/-- A word with one byte replaced. -/
def withLowByte (w : Word) (b : Byte) : Word := highByte w ++ b
def withHighByte (w : Word) (b : Byte) : Word := b ++ lowByte w

/-- `Reg16(k)` (R30). -/
def Regs.get (r : Regs) : Reg16 → Word
  | .ax => r.ax | .cx => r.cx | .dx => r.dx | .bx => r.bx
  | .sp => r.sp | .bp => r.bp | .si => r.si | .di => r.di

/-- `Reg16(k) <- v` (R30). -/
def Regs.set (r : Regs) (k : Reg16) (v : Word) : Regs :=
  match k with
  | .ax => { r with ax := v } | .cx => { r with cx := v } | .dx => { r with dx := v } | .bx => { r with bx := v }
  | .sp => { r with sp := v } | .bp => { r with bp := v } | .si => { r with si := v } | .di => { r with di := v }

/-- The 16-bit register a byte register is half of (R31). -/
def fullReg : Reg8 → Reg16
  | .al | .ah => .ax | .cl | .ch => .cx | .dl | .dh => .dx | .bl | .bh => .bx

/-- Whether it is the high half (R31). -/
def isHighHalf : Reg8 → Bool
  | .al | .cl | .dl | .bl => false
  | .ah | .ch | .dh | .bh => true

/-- `Reg8(k)` (R31). -/
def Regs.get8 (r : Regs) (k : Reg8) : Byte :=
  if isHighHalf k then highByte (r.get (fullReg k)) else lowByte (r.get (fullReg k))

/-- `Reg8(k) <- v`: the other half stays (R31). -/
def Regs.set8 (r : Regs) (k : Reg8) (v : Byte) : Regs :=
  r.set (fullReg k) (if isHighHalf k then withHighByte (r.get (fullReg k)) v else withLowByte (r.get (fullReg k)) v)

/-- `Sreg(k)` (R33). -/
def Sregs.get (r : Sregs) : Sreg → Word
  | .es => r.es | .cs => r.cs | .ss => r.ss | .ds => r.ds

/-- `Sreg(k) <- v` (R33). -/
def Sregs.set (r : Sregs) (k : Sreg) (v : Word) : Sregs :=
  match k with
  | .es => { r with es := v } | .cs => { r with cs := v } | .ss => { r with ss := v } | .ds => { r with ds := v }

/-- The registers of a state. -/
def reg16 (k : Reg16) (s : State) : Word := s.regs.get k
def reg8 (k : Reg8) (s : State) : Byte := s.regs.get8 k
def sreg (k : Sreg) (s : State) : Word := s.sregs.get k
def setReg16 (k : Reg16) (v : Word) (s : State) : State := s.setRegs (s.regs.set k v)
def setReg8 (k : Reg8) (v : Byte) (s : State) : State := s.setRegs (s.regs.set8 k v)
def setSreg (k : Sreg) (v : Word) (s : State) : State := s.setSregs (s.sregs.set k v)

end Sys2Proof.Machine
end

