-- ==== Sys2Proof/Machine/Flags.lean ====
section
/-! DEFINITION. The flags: the FLAGS word (spec/10_state.md R35, R36) and the flag computations of
spec/41_arithmetic.md R300 to R302 and spec/42_logic_shift.md R370, at either width. -/

namespace Sys2Proof.Machine

/-- A flag's name (R35). -/
inductive Flag where
  | cf | pf | af | zf | sf | tf | if | df | of
  deriving DecidableEq, Repr

def Flags.get (f : Flags) : Flag → Bool
  | .cf => f.CF | .pf => f.PF | .af => f.AF | .zf => f.ZF | .sf => f.SF
  | .tf => f.TF | .if => f.IF | .df => f.DF | .of => f.OF

def Flags.set (f : Flags) (k : Flag) (b : Bool) : Flags :=
  match k with
  | .cf => { f with CF := b } | .pf => { f with PF := b } | .af => { f with AF := b }
  | .zf => { f with ZF := b } | .sf => { f with SF := b } | .tf => { f with TF := b }
  | .if => { f with IF := b } | .df => { f with DF := b } | .of => { f with OF := b }

/-- A flag of a state, and its update. -/
def flag (k : Flag) (s : State) : Bool := s.flags.get k
def setFlag (k : Flag) (b : Bool) (s : State) : State := s.setFlags (s.flags.set k b)

/-! ## The FLAGS word -/

/-- The reserved bits 1, 3, 5 and 12 to 15 (R35). -/
def flagsReservedMask : Word := 0xF02A#16

/-- `FlagsWord()` (R36): the flags at their places over the reserved bits of the image (log 18). -/
def Flags.toWord (image : Word) (f : Flags) : Word :=
  (image &&& flagsReservedMask) |||
    (0#4 ++ BitVec.ofBool f.OF ++ BitVec.ofBool f.DF ++ BitVec.ofBool f.IF ++ BitVec.ofBool f.TF ++
      BitVec.ofBool f.SF ++ BitVec.ofBool f.ZF ++ 0#1 ++ BitVec.ofBool f.AF ++ 0#1 ++
      BitVec.ofBool f.PF ++ 0#1 ++ BitVec.ofBool f.CF)

/-- `SetFlagsWord(v)` (R36): the reserved bits are ignored. -/
def Flags.ofWord (v : Word) : Flags where
  CF := v.getLsbD 0
  PF := v.getLsbD 2
  AF := v.getLsbD 4
  ZF := v.getLsbD 6
  SF := v.getLsbD 7
  TF := v.getLsbD 8
  IF := v.getLsbD 9
  DF := v.getLsbD 10
  OF := v.getLsbD 11

def flagsWord (s : State) : Word := s.flags.toWord s.params.flagsReservedImage

def setFlagsWord (v : Word) (s : State) : State := s.setFlags (.ofWord v)

/-! ## Results -/

/-- `parity8` (R11): an even number of ones in bits 7..0. -/
def parity8 {w : Nat} (r : BitVec w) : Bool :=
  !(r.getLsbD 0 ^^ r.getLsbD 1 ^^ r.getLsbD 2 ^^ r.getLsbD 3 ^^
    r.getLsbD 4 ^^ r.getLsbD 5 ^^ r.getLsbD 6 ^^ r.getLsbD 7)

/-- `SZP` (R302). -/
def Flags.szp {w : Nat} (r : BitVec w) (f : Flags) : Flags :=
  { f with ZF := r == 0, SF := r.msb, PF := parity8 r }

/-- The sum of R300. -/
def addResult {w : Nat} (a b : BitVec w) (c : Bool) : BitVec w := a + b + BitVec.ofNat w c.toNat

/-- `AddFlags(a, b, c, N)` (R300). -/
def Flags.add {w : Nat} (a b : BitVec w) (c : Bool) (f : Flags) : Flags :=
  let r := addResult a b c
  { f.szp r with
    CF := decide (2 ^ w ≤ a.toNat + b.toNat + c.toNat)
    OF := a.msb == b.msb && a.msb != r.msb
    AF := (a ^^^ b ^^^ r).getLsbD 4 }

/-- The difference of R301. -/
def subResult {w : Nat} (a b : BitVec w) (c : Bool) : BitVec w := a - b - BitVec.ofNat w c.toNat

/-- `SubFlags(a, b, c, N)` (R301). -/
def Flags.sub {w : Nat} (a b : BitVec w) (c : Bool) (f : Flags) : Flags :=
  let r := subResult a b c
  { f.szp r with
    CF := decide (a.toNat < b.toNat + c.toNat)
    OF := a.msb != b.msb && a.msb != r.msb
    AF := (a ^^^ b ^^^ r).getLsbD 4 }

/-- `AddFlags` and `SubFlags` on a state, and `SZP`. -/
def addFlags {w : Nat} (a b : BitVec w) (c : Bool) (s : State) : State := s.setFlags (s.flags.add a b c)
def subFlags {w : Nat} (a b : BitVec w) (c : Bool) (s : State) : State := s.setFlags (s.flags.sub a b c)
def szpFlags {w : Nat} (r : BitVec w) (s : State) : State := s.setFlags (s.flags.szp r)

/-! ## Free values -/

/-- `Draw_1()` into a flag (R14): the next free bit. -/
def drawFlag (k : Flag) (s : State) : State := (setFlag k (Config.drawBit s.draws) s).setDraws (s.draws + 1)

/-- `Draw_1()` into each of the flags an instruction leaves undefined. -/
def undefine (ks : List Flag) (s : State) : State := ks.foldl (fun s k => drawFlag k s) s

/-- The six arithmetic flags (R314). -/
def arithFlags : List Flag := [.cf, .pf, .af, .zf, .sf, .of]

/-- `LogicFlags(r, N)` (R370). -/
def logicFlags {w : Nat} (r : BitVec w) (s : State) : State :=
  undefine [.af] (s.setFlags { s.flags.szp r with CF := false, OF := false })

end Sys2Proof.Machine
end

