-- ==== Sys2Proof/Machine/Planar.lean ====
section
/-! DEFINITION. The planar memory controller (spec/49_video_adapter.md R699, R730 to R741; lanes: R15). -/

namespace Sys2Proof.Machine

/-- A plane byte and its update; an unwritten byte reads as `Config.unwrittenPlane` (log 3). -/
def planeGet (p : Table Byte) (a : Nat) : Byte := p.get Config.unwrittenPlane a
def planeSet (p : Table Byte) (a : Nat) (v : Byte) : Table Byte := p.set Config.unwrittenPlane a v

/-- A sequencer and a graphics controller register. -/
def Video.seqReg (v : Video) (i : Nat) : Byte := v.seq.get 0#8 i
def Video.gcReg (v : Video) (i : Nat) : Byte := v.gc.get 0#8 i

/-! ## The register fields of R699 -/

def Video.pwe (v : Video) : BitVec 4 := (v.seqReg 2).extractLsb' 0 4
def Video.srValue (v : Video) : BitVec 4 := (v.gcReg 0).extractLsb' 0 4
def Video.srEnable (v : Video) : BitVec 4 := (v.gcReg 1).extractLsb' 0 4
def Video.colourCompare (v : Video) : BitVec 4 := (v.gcReg 2).extractLsb' 0 4
def Video.rotCount (v : Video) : BitVec 3 := (v.gcReg 3).extractLsb' 0 3
def Video.logicOp (v : Video) : BitVec 2 := (v.gcReg 3).extractLsb' 3 2
def Video.readMap (v : Video) : BitVec 2 := (v.gcReg 4).extractLsb' 0 2
def Video.writeMode (v : Video) : BitVec 2 := (v.gcReg 5).extractLsb' 0 2
def Video.readMode (v : Video) : Bool := (v.gcReg 5).getLsbD 3
def Video.colourDontCare (v : Video) : BitVec 4 := (v.gcReg 7).extractLsb' 0 4
def Video.bitMask (v : Video) : Byte := v.gcReg 8

/-! ## Lanes (R15) -/

/-- 0xFF or 0x00. -/
def fill8 (b : Bool) : Byte := if b then 0xFF#8 else 0x00#8

/-- `expand4`: lane i is bit i of x repeated. -/
def expand4 (x : BitVec 4) : BitVec 32 :=
  fill8 (x.getLsbD 3) ++ fill8 (x.getLsbD 2) ++ fill8 (x.getLsbD 1) ++ fill8 (x.getLsbD 0)

/-- `broadcast8`: b in each of the four lanes. -/
def broadcast8 (b : Byte) : BitVec 32 := b ++ b ++ b ++ b

/-- `ror8(b, k)`, for k in 0..7. -/
def ror8 (b : Byte) (k : BitVec 3) : Byte := b.rotateRight k.toNat

/-- Lane i of a 32-bit word. -/
def lane (w : BitVec 32) (i : Nat) : Byte := w.extractLsb' (8 * i) 8

/-! ## Reading -/

/-- The plane with number i (R49). -/
def Planes.plane (p : Planes) (i : BitVec 2) : Table Byte :=
  match i.toNat with
  | 0 => p.p0
  | 1 => p.p1
  | 2 => p.p2
  | _ => p.p3

/-- The four plane bytes at an offset, plane i in lane i (R730). -/
def Planes.lanes (p : Planes) (a : Nat) : BitVec 32 :=
  planeGet p.p3 a ++ planeGet p.p2 a ++ planeGet p.p1 a ++ planeGet p.p0 a

/-- One plane's part of R731: the bits equal to its compare bit, or all of them if it is not compared. -/
def comparePlane (byte : Byte) (cc dc : Bool) : Byte := ~~~((byte ^^^ fill8 cc) &&& fill8 dc)

/-- `ReadMode1(a)` (R731). -/
def Video.readMode1 (v : Video) (a : Nat) : Byte :=
  comparePlane (planeGet v.planes.p0 a) (v.colourCompare.getLsbD 0) (v.colourDontCare.getLsbD 0) &&&
  comparePlane (planeGet v.planes.p1 a) (v.colourCompare.getLsbD 1) (v.colourDontCare.getLsbD 1) &&&
  comparePlane (planeGet v.planes.p2 a) (v.colourCompare.getLsbD 2) (v.colourDontCare.getLsbD 2) &&&
  comparePlane (planeGet v.planes.p3 a) (v.colourCompare.getLsbD 3) (v.colourDontCare.getLsbD 3)

/-- The byte a planar read returns (R730). -/
def Video.planarByte (v : Video) (a : Nat) : Byte :=
  if v.readMode then v.readMode1 a else planeGet (v.planes.plane v.readMap) a

/-- The latch load of a planar read (R730). -/
def Video.loadLatch (v : Video) (a : Nat) : Video := { v with latch := v.planes.lanes a }

/-! ## Writing -/

/-- `ALU(S)` (R736). -/
def Video.alu (v : Video) (x : BitVec 32) : BitVec 32 :=
  match v.logicOp.toNat with
  | 0 => x
  | 1 => x &&& v.latch
  | 2 => x ||| v.latch
  | _ => x ^^^ v.latch

/-- `BitMask(T)` (R736). -/
def Video.bitMaskMux (v : Video) (t : BitVec 32) : BitVec 32 :=
  (t &&& broadcast8 v.bitMask) ||| (v.latch &&& ~~~(broadcast8 v.bitMask))

/-- U of the write path, by write mode (R735). -/
def Video.planarData (v : Video) (b : Byte) : BitVec 32 :=
  match v.writeMode.toNat with
  | 0 =>
    let m := expand4 (~~~v.srEnable)
    let x := (broadcast8 (ror8 b v.rotCount) &&& m) ||| (expand4 v.srValue &&& ~~~m)
    v.bitMaskMux (v.alu x)
  | 1 => v.latch
  | 2 => v.bitMaskMux (v.alu (expand4 (b.extractLsb' 0 4)))
  | _ =>
    let t := expand4 ((v.bitMask &&& ror8 b v.rotCount).extractLsb' 0 4)
    (expand4 v.srValue &&& t) ||| (v.latch &&& ~~~t)

/-- A plane's byte written if its write enable is set. -/
def planeStore (enable : Bool) (a : Nat) (v : Byte) (p : Table Byte) : Table Byte :=
  if enable then planeSet p a v else p

/-- The planes with the enabled lanes of U stored at an offset (R735). -/
def Planes.store (p : Planes) (pwe : BitVec 4) (a : Nat) (u : BitVec 32) : Planes where
  p0 := planeStore (pwe.getLsbD 0) a (lane u 0) p.p0
  p1 := planeStore (pwe.getLsbD 1) a (lane u 1) p.p1
  p2 := planeStore (pwe.getLsbD 2) a (lane u 2) p.p2
  p3 := planeStore (pwe.getLsbD 3) a (lane u 3) p.p3

/-- `PlanarWrite` (R735), for an aperture offset a; the latch stays. -/
def Video.planarStore (v : Video) (a : Nat) (b : Byte) : Video :=
  { v with planes := v.planes.store v.pwe a (v.planarData b) }

/-- The adapter but for its planes and its latch. -/
def Video.registers (v : Video) : Video := { v with planes := ⟨[], [], [], []⟩, latch := 0#32 }

end Sys2Proof.Machine
end

