-- ==== Sys2Proof/Machine/Memory.lean ====
section
/-! DEFINITION. Memory accesses (spec/20_memory.md R100 to R105) and the stack primitives
(spec/40_data_transfer.md R230). A read is a pair: the value, and the state with the latch it loaded. -/

namespace Sys2Proof.Machine

/-- `Lin(seg, off)` (R100). -/
def lin (seg off : Word) : Linear := (seg.setWidth 20 <<< 4) + off.setWidth 20

/-- RAM, a table of the 2^20 addresses. -/
abbrev Memory := Table Byte

/-- RAM's canonical form. -/
def Memory.wf (m : Memory) : Bool := Table.wf Config.unwrittenRam (2 ^ 20) m

/-- A RAM byte and its update. -/
def ramGet (m : Memory) (a : Linear) : Byte := m.get Config.unwrittenRam a.toNat
def ramSet (m : Memory) (a : Linear) (v : Byte) : Memory := m.set Config.unwrittenRam a.toNat v

/-- 0xA0000 to 0xAFFFF (R101). -/
def inAperture (a : Linear) : Bool := a.extractLsb' 16 4 == 0xA#4

/-- The offset of an aperture address. -/
def apertureOffset (a : Linear) : Nat := (a.extractLsb' 0 16).toNat

/-- `readonly[a]` (R41). -/
def isReadonly (a : Linear) (s : State) : Bool := s.readonly.contains a.toNat

/-- The value `read8(a)` returns (R101). -/
def peek8 (a : Linear) (s : State) : Byte :=
  if inAperture a then s.video.planarByte (apertureOffset a) else ramGet s.ram a

/-- What `read8(a)` does to the state: an aperture read loads the latch (R110). -/
def touch8 (a : Linear) (s : State) : State :=
  if inAperture a then s.setVideo (s.video.loadLatch (apertureOffset a)) else s

/-- `read8(a)` (R101). -/
def read8 (a : Linear) (s : State) : Byte × State := (peek8 a s, touch8 a s)

/-- `write8(a, v)` (R102). -/
def write8 (a : Linear) (v : Byte) (s : State) : State :=
  if isReadonly a s then s
  else if inAperture a then s.setVideo (s.video.planarStore (apertureOffset a) v)
  else s.setRam (ramSet s.ram a v)

/-- `read16(a)` (R103): the low byte first. -/
def read16 (a : Linear) (s : State) : Word × State :=
  let (lo, s) := read8 a s
  let (hi, s) := read8 (a + 1) s
  (hi ++ lo, s)

/-- The value `read16(a)` returns, and what it does to the state (R103, R110). -/
def peek16 (a : Linear) (s : State) : Word := peek8 (a + 1) s ++ peek8 a s
def touch16 (a : Linear) (s : State) : State := touch8 (a + 1) (touch8 a s)

/-- `write16(a, v)` (R104). -/
def write16 (a : Linear) (v : Word) (s : State) : State :=
  write8 (a + 1) (highByte v) (write8 a (lowByte v) s)

/-- A far pointer at `a`: the offset word, then the segment word at `a + 2` (R109). -/
def readFar (a : Linear) (s : State) : Word × Word × State :=
  let (off, s) := read16 a s
  let (seg, s) := read16 (a + 2) s
  (off, seg, s)

/-- Bytes written one after another (R607). -/
def writeBytes : List Byte → Linear → State → State
  | [], _, s => s
  | b :: rest, a, s => writeBytes rest (a + 1) (write8 a b s)

/-- `n` bytes read one after another (R610). -/
def readBytes : Nat → Linear → State → List Byte × State
  | 0, _, s => ([], s)
  | n + 1, a, s =>
    let (b, s) := read8 a s
    let (rest, s) := readBytes n (a + 1) s
    (b :: rest, s)

/-- The address of the stack's top. -/
def stackTop (s : State) : Linear := lin (sreg .ss s) (reg16 .sp s)

/-- `Push16(v)` (R230). -/
def push16 (v : Word) (s : State) : State :=
  let s := setReg16 .sp (reg16 .sp s - 2) s
  write16 (stackTop s) v s

/-- `Pop16()` (R230). -/
def pop16 (s : State) : Word × State :=
  let (v, s) := read16 (stackTop s) s
  (v, setReg16 .sp (reg16 .sp s + 2) s)

end Sys2Proof.Machine
end

