-- ==== Sys2Proof/Machine/Pic.lean ====
section
/-! DEFINITION. The 8259 PIC (spec/60_exceptions.md R800 to R811). -/

namespace Sys2Proof.Machine

/-- The number of the lowest set bit of a byte, 0 for a byte of zeros. -/
def lowestBit (b : Byte) : Nat :=
  ((List.range 8).find? (fun i => b.getLsbD i)).getD 0

/-- A byte with only bit i set. -/
def bit8 (i : Nat) : Byte := 1#8 <<< i

/-- The pending, unmasked requests (R807). -/
def Pic.pending (p : Pic) : Byte := p.irr &&& ~~~p.imr

/-- ICW1 (R802). -/
def Pic.icw1Write (v : Byte) (p : Pic) : Pic := { p with imr := 0#8, icw1 := v, step := .icw2 }

/-- Non-specific EOI (R803). -/
def Pic.eoi (p : Pic) : Pic :=
  if p.isr = 0#8 then { p with kbdAck := false }
  else
    let b := lowestBit p.isr
    let p := { p with isr := p.isr &&& ~~~(bit8 b), kbdAck := false }
    if b = 0 ∧ 0 < p.makeupTicks then { p with irr := p.irr ||| 1#8, makeupTicks := p.makeupTicks - 1 } else p

/-- OCW3 (R804). -/
def Pic.ocw3 (mode : Ocw3Read) (v : Byte) (p : Pic) : Pic :=
  if v.getLsbD 1 then
    match mode with
    | .byRisBit => { p with readIsr := v.getLsbD 0 }
    | .toggle => { p with readIsr := !p.readIsr }
  else p

/-- A write to port 0x20 (R801). -/
def Pic.commandWrite (params : Params) (v : Byte) (p : Pic) : Pic :=
  if v.getLsbD 4 then p.icw1Write v
  else if v &&& 0x98#8 = 0x08#8 then
    let p := p.ocw3 params.picOcw3Read v
    if params.picOcw3FallThrough && v.getLsbD 5 then p.eoi else p
  else if v.getLsbD 5 then p.eoi
  else p

/-- A write to port 0x21 (R806): the next ICW of the sequence, or OCW1. -/
def Pic.dataWrite (v : Byte) (p : Pic) : Pic :=
  match p.step with
  | .icw2 => { p with icw2 := v, step := .icw3 }
  | .icw3 => if p.icw1.getLsbD 1 then { p with icw4 := v, step := .complete } else { p with icw3 := v, step := .icw4 }
  | .icw4 => { p with icw4 := v, step := .complete }
  | .complete => { p with imr := v }

/-- A read of port 0x20 (R805). -/
def Pic.commandRead (p : Pic) : Byte := if p.readIsr then p.isr else p.irr

/-- `next_interrupt()` (R807): the vector and the PIC after it. -/
def Pic.nextInterrupt (p : Pic) : Byte × Pic :=
  let b := lowestBit p.pending
  (p.icw2 + BitVec.ofNat 8 b, { p with irr := p.irr &&& ~~~(bit8 b), isr := p.isr ||| bit8 b })

/-- `raise(irq)` (R810). -/
def Pic.raise (irq : BitVec 3) (p : Pic) : Pic :=
  { p with irr := p.irr ||| bit8 irq.toNat, kbdAck := p.kbdAck || irq == 1#3 }

end Sys2Proof.Machine
end

