-- ==== Sys2Proof/Machine/Ports.lean ====
section
/-! DEFINITION. The port bus (spec/20_memory.md R120 to R124) and the video adapter's port handlers
(spec/49_video_adapter.md R680 to R705). -/

namespace Sys2Proof.Machine

/-- `Draw_8()` (R14): the next free byte. -/
def draw8 (s : State) : Byte × State := (Config.drawByte s.draws, s.setDraws (s.draws + 1))

/-! ## Who owns a port -/

/-- A port by what it does (R121, R681 to R690). -/
inductive Port where
  /-- 0x20 -/
  | picCommand
  /-- 0x21 -/
  | picData
  /-- the even ports of 0x3B0-0x3B7 and 0x3D0-0x3D7 -/
  | crtcIndex
  /-- the odd ones -/
  | crtcData
  /-- 0x3B8 -/
  | mdaCtrl
  /-- 0x3D8 -/
  | cgaCtrl
  /-- 0x3D9 -/
  | cgaPalette
  /-- 0x3BA and 0x3DA -/
  | status
  /-- 0x3C0 -/
  | attr
  /-- 0x3C4 -/
  | seqIndex
  /-- 0x3C5 -/
  | seqData
  /-- 0x3C6 -/
  | pixelMask
  /-- 0x3C7 -/
  | dacReadIndex
  /-- 0x3C8 -/
  | dacWriteIndex
  /-- 0x3C9 -/
  | dacData
  /-- 0x3CE -/
  | gcIndex
  /-- 0x3CF -/
  | gcData
  /-- a port of 0x3B0-0x3DF that no rule names (R680, R686, R705), and 0x3C1 -/
  | unnamedVideo
  /-- every other port -/
  | other
  deriving DecidableEq, Repr

/-- The MDA and CGA ports, by their low digit (R681 to R686). -/
def crtcRangePort (mda : Bool) (d : Nat) : Port :=
  match d with
  | 0 | 2 | 4 | 6 => .crtcIndex
  | 1 | 3 | 5 | 7 => .crtcData
  | 8 => if mda then .mdaCtrl else .cgaCtrl
  | 9 => if mda then .unnamedVideo else .cgaPalette
  | 10 => .status
  | _ => .unnamedVideo

/-- The EGA/VGA ports, by their low digit (R690). -/
def egaRangePort (d : Nat) : Port :=
  match d with
  | 0 => .attr
  | 4 => .seqIndex
  | 5 => .seqData
  | 6 => .pixelMask
  | 7 => .dacReadIndex
  | 8 => .dacWriteIndex
  | 9 => .dacData
  | 14 => .gcIndex
  | 15 => .gcData
  | _ => .unnamedVideo

/-- What a port is (R121). -/
def portAt (p : Word) : Port :=
  let d := (p.extractLsb' 0 4).toNat
  match (p.extractLsb' 4 12).toNat with
  | 0x02 => if d = 0 then .picCommand else if d = 1 then .picData else .other
  | 0x3B => crtcRangePort true d
  | 0x3C => egaRangePort d
  | 0x3D => crtcRangePort false d
  | _ => .other

/-! ## The adapter's registers -/

/-- The register of the 32-entry CRTC file that the index selects (R682). -/
def Video.crtcSlot (v : Video) : Nat := (v.crtcIndex.extractLsb' 0 5).toNat

/-- A two-bit intensity of R692. -/
def egaLevel (primary secondary : Bool) : Byte :=
  match primary, secondary with
  | false, false => 0x00#8
  | false, true => 0xAA#8
  | true, false => 0x55#8
  | true, true => 0xFF#8

/-- `EgaColour(v)` (R692). -/
def egaColour (v : Byte) : Rgb :=
  egaLevel (v.getLsbD 5) (v.getLsbD 2) ++ egaLevel (v.getLsbD 4) (v.getLsbD 1) ++ egaLevel (v.getLsbD 3) (v.getLsbD 0)

/-- A write to 0x3C0 (R691). The index is `v & 0x1F`, as the rule's pseudocode has it, and bit 5 of the address byte is
dropped, where the rule's prose keeps it in attr_index (DEDUCED, log 27). -/
def AttrCtl.write (v : Byte) (a : AttrCtl) : AttrCtl :=
  match a.flipflop with
  | .address => { a with index := v.extractLsb' 0 5, flipflop := .data }
  | .data =>
    if a.index.toNat < 16 then { a with palette := a.palette.set 0#24 a.index.toNat (egaColour v), flipflop := .address }
    else { a with attr := a.attr.set 0#8 a.index.toNat v, flipflop := .address }

/-- The number of the lowest bit of a channel's byte: `sh` of R703. -/
def DacChannel.shift : DacChannel → Nat
  | .r => 16
  | .g => 8
  | .b => 0

/-- The channel after this one: R to G to B to R (R703). -/
def DacChannel.succ : DacChannel → DacChannel
  | .r => .g
  | .g => .b
  | .b => .r

/-- The index after an access: it moves on when the channel wraps from B (R703). -/
def DacChannel.step (c : DacChannel) (index : Byte) : Byte := if c = .b then index + 1 else index

/-- An entry of the DAC (R47). -/
def Dac.entry (d : Dac) (i : Byte) : Rgb := d.entries.get 0#24 i.toNat

/-- A DAC entry with one channel's byte replaced (R703). -/
def dacInsert (e : Rgb) (sh : Nat) (v : Byte) : Rgb :=
  (e &&& ~~~(0xFF#24 <<< sh)) ||| (((v &&& 0x3F#8).setWidth 24 <<< 2) <<< sh)

/-- A write to 0x3C9 (R703). -/
def Dac.write (v : Byte) (d : Dac) : Dac :=
  { d with
    entries := d.entries.set 0#24 d.writeIndex.toNat (dacInsert (d.entry d.writeIndex) d.channel.shift v)
    channel := d.channel.succ
    writeIndex := d.channel.step d.writeIndex }

/-- The value a read of 0x3C9 returns (R704). -/
def Dac.readValue (d : Dac) : Byte :=
  ((d.entry d.readIndex >>> (d.channel.shift + 2)) &&& 0x3F#24).setWidth 8

/-- What a read of 0x3C9 does (R704). -/
def Dac.readStep (d : Dac) : Dac := { d with channel := d.channel.succ, readIndex := d.channel.step d.readIndex }

/-- A write to 0x3C7 (R701) and to 0x3C8 (R702). -/
def Dac.setReadIndex (v : Byte) (d : Dac) : Dac := { d with readIndex := v, channel := .r, state := .reading }
def Dac.setWriteIndex (v : Byte) (d : Dac) : Dac := { d with writeIndex := v, channel := .r, state := .writing }

/-! ## Reading and writing a port -/

/-- A port's shadow byte, and a write to it (R42, R120). -/
def shadowGet (p : Word) (s : State) : Byte := s.shadow.get 0#8 p.toNat
def shadowSet (p : Word) (v : Byte) (s : State) : State := s.setShadow (s.shadow.set 0#8 p.toNat v)

/-- The status read (R693). -/
def statusRead (s : State) : Byte × State :=
  let s := s.setVideo { s.video with attr := { s.video.attr with flipflop := .address } }
  let (t, s) := draw8 s
  (0xF0#8 ||| (t &&& 0x0B#8), s)

/-- `PortRead(p, 1)` (R120, R121, R124). The block's own ports come before `EXTERNAL_PORTS` (log 17). -/
def portRead8 (p : Word) (s : State) : Byte × State :=
  match portAt p with
  | .picCommand => (s.pic.commandRead, s)
  | .picData => (s.pic.imr, s)
  | .crtcIndex => (s.video.crtcIndex, s)
  | .crtcData => (s.video.crtc.get 0#8 s.video.crtcSlot, s)
  | .status => statusRead s
  | .seqIndex => (s.video.seqIndex, s)
  | .seqData => (s.video.seqReg s.video.seqIndex.toNat, s)
  | .pixelMask => (s.video.pixelMask, s)
  | .dacData => (s.video.dac.readValue, s.setVideo { s.video with dac := s.video.dac.readStep })
  | .gcIndex => (s.video.gcIndex, s)
  | .gcData => (s.video.gcReg s.video.gcIndex.toNat, s)
  | .mdaCtrl | .cgaCtrl | .cgaPalette | .attr | .dacReadIndex | .dacWriteIndex | .unnamedVideo => draw8 s
  | .other => if s.params.externalPorts.contains p then draw8 s else (shadowGet p s, s)

/-- The adapter after a write to one of its named ports (R681 to R703). -/
def Video.portWrite (port : Port) (v : Byte) (d : Video) : Video :=
  match port with
  | .crtcIndex => { d with crtcIndex := v }
  | .crtcData => { d with crtc := d.crtc.set 0#8 d.crtcSlot v }
  | .mdaCtrl => { d with mdaCtrl := v }
  | .cgaCtrl => { d with cgaCtrl := v }
  | .cgaPalette => { d with cgaPalette := v }
  | .attr => { d with attr := d.attr.write v }
  | .seqIndex => { d with seqIndex := v }
  | .seqData => { d with seq := d.seq.set 0#8 d.seqIndex.toNat v }
  | .pixelMask => { d with pixelMask := v }
  | .dacReadIndex => { d with dac := d.dac.setReadIndex v }
  | .dacWriteIndex => { d with dac := d.dac.setWriteIndex v }
  | .dacData => { d with dac := d.dac.write v }
  | .gcIndex => { d with gcIndex := v }
  | .gcData => { d with gc := d.gc.set 0#8 d.gcIndex.toNat v }
  | .picCommand | .picData | .status | .unnamedVideo | .other => d

/-- `PortWrite(p, 1, v)` (R120, R121, R124). -/
def portWrite8 (p : Word) (v : Byte) (s : State) : State :=
  match portAt p with
  | .picCommand => s.setPic (s.pic.commandWrite s.params v)
  | .picData => s.setPic (s.pic.dataWrite v)
  | .status | .unnamedVideo | .other => shadowSet p v s
  | port => s.setVideo (s.video.portWrite port v)

/-- `PortRead(p, 2)` (R122): port p first. -/
def portRead16 (p : Word) (s : State) : Word × State :=
  let (lo, s) := portRead8 p s
  let (hi, s) := portRead8 (p + 1) s
  (hi ++ lo, s)

/-- `PortWrite(p, 2, v)` (R122). -/
def portWrite16 (p : Word) (v : Word) (s : State) : State :=
  portWrite8 (p + 1) (highByte v) (portWrite8 p (lowByte v) s)

end Sys2Proof.Machine
end

