-- ==== Sys2Proof/Machine/Disk.lean ====
section
/-! DEFINITION. The INT 13h disk engine (spec/47_bios_disk_int13.md R600 to R628). -/

namespace Sys2Proof.Machine

/-- A drive slot (R600). -/
def Disk.at (d : Disk) (n : Byte) : Drive := d.drive.get .empty n.toNat

/-- A drive slot with new contents. -/
def Disk.setAt (d : Disk) (n : Byte) (v : Drive) : Disk := { d with drive := d.drive.set .empty n.toNat v }

/-- `hdcount` (R605). -/
def Disk.hdcount (d : Disk) : Nat :=
  ((List.range 256).filter fun i => 0x80 ≤ i && (d.drive.get .empty i).inserted).length

/-- The geometry (cyls, sects, heads) of an image of a size (R602, R603). -/
def imageGeometry (d : Byte) (size : Nat) : Nat × Nat × Nat :=
  if 0x80#8 ≤ d then (size / 516096, 63, 16)
  else if size = 163840 then (40, 8, 1)
  else if size = 368640 then (40, 9, 2)
  else if size = 737280 then (80, 9, 2)
  else if size = 1228800 then (80, 15, 2)
  else (80, 18, 2)

/-- The sector size in bytes (R606). -/
def sectorSize : Nat := 512

/-- The bytes of the sector at a file offset. -/
def Drive.sector (d : Drive) (o : Nat) : List Byte := (List.range sectorSize).map fun j => d.backing.get 0#8 (o + j)

/-- A backing store with bytes written from an offset on. -/
def backingWrite : List Byte → Nat → Table Byte → Table Byte
  | [], _, t => t
  | b :: rest, o, t => backingWrite rest (o + 1) (t.set 0#8 o b)

/-- `n` free bytes (R610). -/
def drawBytes (n : Nat) (s : State) : List Byte × State :=
  ((List.range n).map fun j => Config.drawByte (s.draws + j), s.setDraws (s.draws + n))

/-- `HostFail_i` (R609): a draw for a raw device, false for an image file. -/
def hostFail (raw : Bool) (s : State) : Bool × State :=
  if raw then (Config.drawBit s.draws, s.setDraws (s.draws + 1)) else (false, s)

/-- What a call transfers (R607): drive, byte offset in the backing store, sector count, linear buffer. -/
structure Transfer where
  drive : Byte
  off : Nat
  count : Nat
  buf : Linear
  deriving DecidableEq, Repr

/-- How a transfer ends: the sectors moved, and the failure code if one failed (R608). -/
structure Moved where
  sectors : Nat
  error : Option Byte
  deriving DecidableEq, Repr

/-- `lba` (R606), for sector numbers from 1. -/
def chsToLba (drive : Drive) (cyl head sect : Nat) : Nat := (cyl * drive.heads + head) * drive.sects + sect - 1

/-- The cylinder and sector of CH and CL (R607). -/
def cylOf (ch cl : Byte) : Nat := ch.toNat + 256 * (cl.extractLsb' 6 2).toNat
def sectOf (cl : Byte) : Nat := (cl.extractLsb' 0 6).toNat

/-- R607 and R608: the transfer the registers ask for, or the failure code. -/
def decodeTransfer (s : State) : Except Byte Transfer :=
  let d := reg8 .dl s
  let drive := s.disk.at d
  let sect := sectOf (reg8 .cl s)
  let off := chsToLba drive (cylOf (reg8 .ch s) (reg8 .cl s)) (reg8 .dh s).toNat sect * sectorSize
  if !drive.inserted then .error s.params.diskErrNotInserted
  else if sect = 0 then .error s.params.diskErrBadAddress
  else if drive.size < off then .error s.params.diskErrBadAddress
  else .ok ⟨d, off, (reg8 .al s).toNat, lin (sreg .es s) (reg16 .bx s)⟩

/-- The sector loop of R609 with `n` sectors to go and `i` done. -/
def readSectors (t : Transfer) : Nat → Nat → State → Moved × State
  | 0, i, s => (⟨i, none⟩, s)
  | n + 1, i, s =>
    let drive := s.disk.at t.drive
    let o := t.off + sectorSize * i
    if drive.size < o + sectorSize then (⟨i, some s.params.diskErrRead⟩, s)
    else
      let (failed, s) := hostFail drive.raw s
      if failed then (⟨i, some s.params.diskErrRead⟩, s)
      else readSectors t n (i + 1) (writeBytes (drive.sector o) (t.buf + BitVec.ofNat 20 (sectorSize * i)) s)

/-- The drive's backing store with a sector's bytes. -/
def storeSector (d : Byte) (o : Nat) (bytes : List Byte) (s : State) : State :=
  let drive := s.disk.at d
  s.setDisk (s.disk.setAt d { drive with backing := backingWrite bytes o drive.backing })

/-- The sector loop of R610. -/
def writeSectors (t : Transfer) : Nat → Nat → State → Moved × State
  | 0, i, s => (⟨i, none⟩, s)
  | n + 1, i, s =>
    let drive := s.disk.at t.drive
    let o := t.off + sectorSize * i
    let (bytes, s) := readBytes sectorSize (t.buf + BitVec.ofNat 20 (sectorSize * i)) s
    if drive.size < o + sectorSize then (⟨i, some s.params.diskErrWrite⟩, s)
    else
      let (failed, s) := hostFail drive.raw s
      if failed then
        let (junk, s) := drawBytes sectorSize s
        (⟨i, some s.params.diskErrWrite⟩, storeSector t.drive o junk s)
      else writeSectors t n (i + 1) (storeSector t.drive o bytes s)

/-- The result registers (R608, R609): AL, AH and CF. -/
def transferResult (m : Moved) (s : State) : State :=
  let s := setReg8 .al (BitVec.ofNat 8 m.sectors) s
  match m.error with
  | none => setFlag .cf false (setReg8 .ah 0#8 s)
  | some code => setFlag .cf true (setReg8 .ah code s)

/-- AH = 00, 04, 05: success (R612, R616). -/
def int13Success (s : State) : State := setFlag .cf false (setReg8 .ah 0#8 s)

/-- AH = 01 (R613). -/
def int13LastStatus (s : State) : State :=
  let d := (reg8 .dl s).toNat
  setFlag .cf (s.disk.lastCf.get false d) (setReg8 .ah (s.disk.lastAh.get 0#8 d) s)

/-- AH = 02 (R614). -/
def int13Read (s : State) : State :=
  match decodeTransfer s with
  | .error code => transferResult ⟨0, some code⟩ s
  | .ok t =>
    let (m, s) := readSectors t t.count 0 s
    transferResult m s

/-- AH = 03 (R615). -/
def int13Write (s : State) : State :=
  match decodeTransfer s with
  | .error code => transferResult ⟨0, some code⟩ s
  | .ok t =>
    let (m, s) := writeSectors t t.count 0 s
    transferResult m s

/-- AH = 08 (R617). `cyls - 1` and `heads - 1` are taken mod 2^8 also from 0 (logs 22, 28). -/
def int13Params (s : State) : State :=
  let d := reg8 .dl s
  let drive := s.disk.at d
  if !drive.inserted then setFlag .cf true (setReg8 .ah 0xAA#8 s)
  else
    let hd := s.disk.hdcount
    let s := setReg8 .ch (BitVec.ofNat 8 drive.cyls - 1) s
    let s := setReg8 .cl (BitVec.ofNat 8 drive.sects ||| (BitVec.ofNat 8 (drive.cyls / 256) <<< 6)) s
    let s := setReg8 .dh (BitVec.ofNat 8 drive.heads - 1) s
    let s := if 0x80#8 ≤ d then setReg8 .dl (BitVec.ofNat 8 hd) s else setReg8 .bl 4#8 (setReg8 .dl 2#8 s)
    int13Success s

/-- Any other AH (R618). -/
def int13Unsupported (s : State) : State := setFlag .cf true s

/-- The dispatch on AH (R611). -/
def int13Dispatch (s : State) : State :=
  match (reg8 .ah s).toNat with
  | 0 | 4 | 5 => int13Success s
  | 1 => int13LastStatus s
  | 2 => int13Read s
  | 3 => int13Write s
  | 8 => int13Params s
  | _ => int13Unsupported s

/-- The status update after a call on drive d (R627). -/
def int13Status (d : Byte) (s : State) : State :=
  let ah := reg8 .ah s
  let s := s.setDisk { s.disk with
    lastAh := s.disk.lastAh.set 0#8 d.toNat ah
    lastCf := s.disk.lastCf.set false d.toNat s.flags.CF }
  if d.msb then write8 0x00474#20 ah s else s

/-- `Int13()` (R611), with d the DL at entry. -/
def int13 (s : State) : State := int13Status (reg8 .dl s) (int13Dispatch s)

end Sys2Proof.Machine
end

