-- ==== Sys2Proof/Machine/VideoBios.lean ====
section
/-! DEFINITION. The INT 10h service (spec/48_bios_video_int10.md R650 to R654). -/

namespace Sys2Proof.Machine

/-- A row of the mode table (R652); `pixels` is (width, height), which a text row has not. -/
structure ModeRow where
  cols : Nat
  rows : Nat
  pixels : Option (Nat × Nat)
  base : FrameBase
  deriving DecidableEq, Repr

/-- The mode table (R652). -/
def modeRow (m : BitVec 7) : Option ModeRow :=
  match m.toNat with
  | 0x00 | 0x01 => some ⟨40, 25, none, .b8000⟩
  | 0x02 | 0x03 => some ⟨80, 25, none, .b8000⟩
  | 0x04 | 0x05 => some ⟨40, 25, some (320, 200), .b8000⟩
  | 0x06 => some ⟨80, 25, some (640, 200), .b8000⟩
  | 0x07 => some ⟨80, 25, none, .b8000⟩
  | 0x0D => some ⟨40, 25, some (320, 200), .a0000⟩
  | 0x0E => some ⟨80, 25, some (640, 200), .a0000⟩
  | 0x0F | 0x10 => some ⟨80, 25, some (640, 350), .a0000⟩
  | 0x11 | 0x12 => some ⟨80, 30, some (640, 480), .a0000⟩
  | 0x13 => some ⟨40, 25, some (320, 200), .a0000⟩
  | _ => none

/-- The family two free bits choose (R651). -/
def familyOf (b₁ b₀ : Bool) : Family :=
  match b₁, b₀ with
  | false, false => .mda
  | false, true => .cga
  | true, false => .ega
  | true, true => .vga

/-- The mode state after a mode set (R651); a text row leaves width and height (R652). -/
def VideoMode.set (m : BitVec 7) (noblank : Bool) (row : ModeRow) (family : Family) (old : VideoMode) : VideoMode where
  number := m
  family := family
  text := row.pixels.isNone
  width := (row.pixels.map Prod.fst).getD old.width
  height := (row.pixels.map Prod.snd).getD old.height
  cols := row.cols
  rows := row.rows
  activePage := 0
  cursor := []
  base := row.base
  noblank := noblank

/-- A table, with default `d`, whose keys `lo`, ..., `lo + n - 1`, but for those in `keep`, hold the free bytes
from `k` on (R653). -/
def drawTable (d : Byte) (keep : List Nat) (lo k : Nat) : Nat → Table Byte → Table Byte
  | 0, t => t
  | n + 1, t =>
    let t := drawTable d keep lo k n t
    if keep.contains (lo + n) then t else t.set d (lo + n) (Config.drawByte (k + n))

/-- The four planes of free bytes from `k` on (R653). -/
def drawPlanes (k : Nat) (p : Planes) : Planes where
  p0 := drawTable Config.unwrittenPlane [] 0 k 0x10000 p.p0
  p1 := drawTable Config.unwrittenPlane [] 0 (k + 0x10000) 0x10000 p.p1
  p2 := drawTable Config.unwrittenPlane [] 0 (k + 0x20000) 0x10000 p.p2
  p3 := drawTable Config.unwrittenPlane [] 0 (k + 0x30000) 0x10000 p.p3

/-- The framebuffer of a mode becomes free bytes (R653): for base 0xB8000 the RAM bytes 0xB8000 to 0xBFFFF
that are not read-only, for base 0xA0000 the planes. -/
def blank (base : FrameBase) (s : State) : State :=
  match base with
  | .b8000 =>
    (s.setRam (drawTable Config.unwrittenRam s.readonly 0xB8000 s.draws 0x8000 s.ram)).setDraws (s.draws + 0x8000)
  | .a0000 => (s.setVideo { s.video with planes := drawPlanes s.draws s.video.planes }).setDraws (s.draws + 0x40000)

/-- The mode set with a listed row (R651). -/
def setMode (m : BitVec 7) (noblank : Bool) (row : ModeRow) (s : State) : State :=
  let family := familyOf (Config.drawBit s.draws) (Config.drawBit (s.draws + 1))
  let s := s.setDraws (s.draws + 2)
  let s := s.setVideo { s.video with mode := s.video.mode.set m noblank row family }
  if noblank then s else blank row.base s

/-- AH = 0F (R654). -/
def getMode (s : State) : State :=
  let mode := s.video.mode
  let s := setReg8 .al (BitVec.ofBool mode.noblank ++ mode.number) s
  let s := setReg8 .ah (BitVec.ofNat 8 mode.cols) s
  setReg8 .bh (mode.activePage.setWidth 8) s

/-- `Int10()` (R650): the state after it, or the mode it refuses. -/
def int10 (s : State) : Except (BitVec 7) State :=
  match (reg8 .ah s).toNat with
  | 0x00 =>
    let m := (reg8 .al s).extractLsb' 0 7
    match modeRow m with
    | some row => .ok (setMode m (reg8 .al s).msb row s)
    | none => .error m
  | 0x0F => .ok (getMode s)
  | _ => .ok s

end Sys2Proof.Machine
end

