-- ==== Sys2Proof/Machine/Ops.lean ====
section
/-! DEFINITION. Taking an exception and returning from one (spec/60_exceptions.md R760 to R770,
spec/44_control_transfer.md R497), the Fatal stop, and fetching an instruction (spec/30_encoding.md R170). -/

namespace Sys2Proof.Machine

/-- What a step or a meaning answers. -/
abbrev Answer := Host.Outcome State Fault Refusal

/-- `raise Fatal(UnmappedOpcode)` (R531, R532, R770): only `run` changes (log 8). -/
def raiseFatal (s : State) : State := s.setRun (.fatal .unmappedOpcode)

/-! ## Interrupts -/

/-- The vectored sequence (R760): push FLAGS, clear IF and TF, push CS and the return IP, load IP and CS from
the vector at `0:4n`. -/
def vectored (n : Byte) (ret : Word) (s : State) : State :=
  let s := push16 (flagsWord s) s
  let s := setFlag .tf false (setFlag .if false s)
  let s := push16 (sreg .cs s) s
  let s := push16 ret s
  let (ip, s) := read16 (lin 0 (4 * n.setWidth 16)) s
  let s := s.setIp ip
  let (cs, s) := read16 (lin 0 (4 * n.setWidth 16 + 2)) s
  let s := setSreg .cs cs s
  s.setRun .running

/-- The end of a served call (R760): go on at `ret`. -/
def served (ret : Word) (s : State) : State := (s.setIp ret).setRun .running

/-- Whether vector 0x10 is served inside the block (R762). -/
def servesInt10 (s : State) : Bool := s.params.int10ShortCircuit.contains (reg8 .ah s)

/-- `Interrupt(n, ret_ip)` (R760), with the short-circuit test of R762. -/
def interrupt (n : Byte) (ret : Word) (s : State) : Answer :=
  if n == 0x10#8 && servesInt10 s then
    match int10 s with
    | .ok s => .next (served ret s)
    | .error m => .refused (.unlistedVideoMode m)
  else if n == 0x13#8 && s.params.int13ShortCircuit then .next (served ret (int13 s))
  else .next (vectored n ret s)

/-- The return from an interrupt (R497): IP, CS and FLAGS from the stack. -/
def returnFromInterrupt (s : State) : State :=
  let (ip, s) := pop16 s
  let s := s.setIp ip
  let (cs, s) := pop16 s
  let s := setSreg .cs cs s
  let (w, s) := pop16 s
  setFlagsWord w s

/-! ## Fetching -/

/-- The address of the instruction byte k after IP: IP wraps inside the segment (R170). -/
def fetchAddr (s : State) (k : Nat) : Linear := lin (sreg .cs s) (s.ip + BitVec.ofNat 16 k)

/-- The bytes at CS:IP that one unit can have (R172). -/
def codeBytes (s : State) : List Byte := (List.range maxUnitBytes).map fun k => peek8 (fetchAddr s k) s

/-- What `n` runs of `Fetch8()` do to the state (R170): each reads its byte and steps IP. -/
def fetchBytes : Nat → State → State
  | 0, s => s
  | n + 1, s =>
    let s' := touch8 (fetchAddr s 0) s
    fetchBytes n (s'.setIp (s'.ip + 1))

/-- The prefix or instruction at CS:IP, and the state with IP past it (R170, R171; log 14). -/
def fetch (s : State) : Except DecodeError (Instr × State) :=
  match decode s.params.ext186 (codeBytes s) with
  | .ok (i, rest) => .ok (i, fetchBytes (maxUnitBytes - rest.length) s)
  | .error e => .error e

end Sys2Proof.Machine
end

