-- ==== Sys2Proof/Machine/Operands.lean ====
section
/-! DEFINITION. Operand forms (spec/30_encoding.md R181 to R187): effective addresses, and reading and writing
an operand at the place the instruction's start gives it. -/

namespace Sys2Proof.Machine

/-! ## Effective addresses -/

/-- The register sum of an effective address (R181). -/
def eaBase (b : EaBase) (s : State) : Word :=
  match b with
  | .bxsi => reg16 .bx s + reg16 .si s
  | .bxdi => reg16 .bx s + reg16 .di s
  | .bpsi => reg16 .bp s + reg16 .si s
  | .bpdi => reg16 .bp s + reg16 .di s
  | .si => reg16 .si s
  | .di => reg16 .di s
  | .bp => reg16 .bp s
  | .bx => reg16 .bx s

/-- The effective offset (R181). -/
def eaOffset (m : MemOp) (s : State) : Word :=
  match m with
  | .direct d => d
  | .base b => eaBase b s
  | .disp8 b d => eaBase b s + d.signExtend 16
  | .disp16 b d => eaBase b s + d

/-- SS for a BP base, DS for the others (R182). -/
def baseSegment : EaBase → Sreg
  | .bpsi | .bpdi | .bp => .ss
  | .bxsi | .bxdi | .si | .di | .bx => .ds

/-- The default segment (R182). -/
def defaultSegment : MemOp → Sreg
  | .direct _ => .ds
  | .base b | .disp8 b _ | .disp16 b _ => baseSegment b

/-- The override if there is one, else the given default (R116, R182). -/
def overridden (default : Sreg) (s : State) : Sreg := s.segOverride.getD default

/-- `ea` (R185). -/
def ea (m : MemOp) (s : State) : Linear := lin (sreg (overridden (defaultSegment m) s) s) (eaOffset m s)

/-- The address of a direct offset of A0 to A3 (R234). -/
def moffs (off : Word) (s : State) : Linear := lin (sreg (overridden .ds s) s) off

/-! ## Operand access (R186) -/

/-- Where an rm operand is. It is found once, before the instruction writes anything. -/
inductive Loc (ρ : Type) where
  | reg (r : ρ)
  | mem (a : Linear)
  deriving DecidableEq, Repr

def locate {ρ : Type} (rm : RM ρ) (s : State) : Loc ρ :=
  match rm with
  | .reg r => .reg r
  | .mem m => .mem (ea m s)

def readLoc8 (l : Loc Reg8) (s : State) : Byte × State :=
  match l with
  | .reg r => (reg8 r s, s)
  | .mem a => read8 a s

def readLoc16 (l : Loc Reg16) (s : State) : Word × State :=
  match l with
  | .reg r => (reg16 r s, s)
  | .mem a => read16 a s

def writeLoc8 (l : Loc Reg8) (v : Byte) (s : State) : State :=
  match l with
  | .reg r => setReg8 r v s
  | .mem a => write8 a v s

def writeLoc16 (l : Loc Reg16) (v : Word) (s : State) : State :=
  match l with
  | .reg r => setReg16 r v s
  | .mem a => write16 a v s

/-- The rm operand read (R186). -/
def readRM8 (rm : RM8) (s : State) : Byte × State := readLoc8 (locate rm s) s
def readRM16 (rm : RM16) (s : State) : Word × State := readLoc16 (locate rm s) s

/-! ## Shapes of instructions -/

/-- `dst <- f(dst)` on an rm operand: read once, written once at the same place (R186). The flag effect of
the operation is applied between. -/
def modifyRM8 (rm : RM8) (f : Byte → State → Byte × State) (s : State) : State :=
  let l := locate rm s
  let (v, s) := readLoc8 l s
  let (r, s) := f v s
  writeLoc8 l r s

def modifyRM16 (rm : RM16) (f : Word → State → Word × State) (s : State) : State :=
  let l := locate rm s
  let (v, s) := readLoc16 l s
  let (r, s) := f v s
  writeLoc16 l r s

/-- A destination and a source of one width, as R303's forms give them: the place of the destination (an rm
operand or a register) and the source's value, both read before anything is written. -/
def aluRead8 (f : AluForm8) (s : State) : Loc Reg8 × Byte × Byte × State :=
  match f with
  | .ebGb rm g =>
    let l := locate rm s
    let (v, s) := readLoc8 l s
    (l, v, reg8 g s, s)
  | .gbEb g rm =>
    let (v, s) := readRM8 rm s
    (.reg g, reg8 g s, v, s)
  | .alIb i => (.reg .al, reg8 .al s, i, s)
  | .ebIb rm i | .ebIbDup rm i =>
    let l := locate rm s
    let (v, s) := readLoc8 l s
    (l, v, i, s)

def aluRead16 (f : AluForm16) (s : State) : Loc Reg16 × Word × Word × State :=
  match f with
  | .ewGw rm g =>
    let l := locate rm s
    let (v, s) := readLoc16 l s
    (l, v, reg16 g s, s)
  | .gwEw g rm =>
    let (v, s) := readRM16 rm s
    (.reg g, reg16 g s, v, s)
  | .axIw i => (.reg .ax, reg16 .ax s, i, s)
  | .ewIw rm i =>
    let l := locate rm s
    let (v, s) := readLoc16 l s
    (l, v, i, s)
  | .ewIbs rm i =>
    let l := locate rm s
    let (v, s) := readLoc16 l s
    (l, v, i.signExtend 16, s)

/-- A binary operation at either width: from destination and source, the result and the flags' change. -/
abbrev BinOp := (w : Nat) → BitVec w → BitVec w → State → BitVec w × State

/-- `dst <- op(dst, src)` on the forms of R303. -/
def aluStore (op : BinOp) (f : AluForm) (s : State) : State :=
  match f with
  | .byte f =>
    let (l, d, v, s) := aluRead8 f s
    let (r, s) := op 8 d v s
    writeLoc8 l r s
  | .word f =>
    let (l, d, v, s) := aluRead16 f s
    let (r, s) := op 16 d v s
    writeLoc16 l r s

/-- `op(dst, src)` for its flags alone (R308). -/
def aluTest (op : BinOp) (f : AluForm) (s : State) : State :=
  match f with
  | .byte f =>
    let (_, d, v, s) := aluRead8 f s
    (op 8 d v s).2
  | .word f =>
    let (_, d, v, s) := aluRead16 f s
    (op 16 d v s).2

/-- A unary operation at either width. -/
abbrev UnOp := (w : Nat) → BitVec w → State → BitVec w × State

/-- `dst <- op(dst)` on an rm operand of either width. -/
def unaryStore (op : UnOp) (e : EOp) (s : State) : State :=
  match e with
  | .b rm => modifyRM8 rm (op 8) s
  | .w rm => modifyRM16 rm (op 16) s

end Sys2Proof.Machine
end

