-- ==== Sys2Proof/Machine/Arithmetic.lean ====
section
/-! DEFINITION. The arithmetic instructions (spec/41_arithmetic.md R304 to R321). -/

namespace Sys2Proof.Machine

/-! ## Addition and subtraction -/

/-- `dst + src + c` with its flags (R300), and `dst - src - c` with its (R301). -/
def addOp (c : State → Bool) : BinOp := fun _ d v s => (addResult d v (c s), addFlags d v (c s) s)
def subOp (c : State → Bool) : BinOp := fun _ d v s => (subResult d v (c s), subFlags d v (c s) s)

/-- No carry in, and CF as it was before the instruction. -/
def noCarry : State → Bool := fun _ => false
def carryIn : State → Bool := flag .cf

/-- R304. -/
def execAdd (f : AluForm) (s : State) : Answer := .next (aluStore (addOp noCarry) f s)
/-- R305. -/
def execAdc (f : AluForm) (s : State) : Answer := .next (aluStore (addOp carryIn) f s)
/-- R306. -/
def execSub (f : AluForm) (s : State) : Answer := .next (aluStore (subOp noCarry) f s)
/-- R307. -/
def execSbb (f : AluForm) (s : State) : Answer := .next (aluStore (subOp carryIn) f s)
/-- R308: no operand is written. -/
def execCmp (f : AluForm) (s : State) : Answer := .next (aluTest (subOp noCarry) f s)

/-! ## Increment, decrement and negate -/

/-- `dst + 1`, CF unchanged (R309). -/
def incOp : UnOp := fun _ d s => (addResult d 1 false, setFlag .cf (flag .cf s) (addFlags d 1 false s))

/-- `dst - 1`, CF unchanged (R310). -/
def decOp : UnOp := fun _ d s => (subResult d 1 false, setFlag .cf (flag .cf s) (subFlags d 1 false s))

/-- `0 - dst` (R311). -/
def negOp : UnOp := fun _ d s => (subResult 0 d false, subFlags 0 d false s)

/-- R309. -/
def execIncReg (r : Reg16) (s : State) : Answer := .next (modifyRM16 (.reg r) (incOp 16) s)
/-- R309. -/
def execIncE (e : EOp) (s : State) : Answer := .next (unaryStore incOp e s)
/-- R310. -/
def execDecReg (r : Reg16) (s : State) : Answer := .next (modifyRM16 (.reg r) (decOp 16) s)
/-- R310. -/
def execDecE (e : EOp) (s : State) : Answer := .next (unaryStore decOp e s)
/-- R311. -/
def execNeg (e : EOp) (s : State) : Answer := .next (unaryStore negOp e s)

/-! ## Multiply -/

/-- A product's effect on CF and OF, and the four flags it leaves undefined (R312, R313). -/
def mulFlags (overflow : Bool) (s : State) : State :=
  undefine [.sf, .zf, .af, .pf] (setFlag .of overflow (setFlag .cf overflow s))

/-- R312. -/
def execMul (e : EOp) (s : State) : Answer :=
  .next <|
    match e with
    | .b rm =>
      let (v, s) := readRM8 rm s
      let p := (reg8 .al s).setWidth 16 * v.setWidth 16
      mulFlags (highByte p != 0#8) (setReg16 .ax p s)
    | .w rm =>
      let (v, s) := readRM16 rm s
      let p := (reg16 .ax s).setWidth 32 * v.setWidth 32
      let hi := p.extractLsb' 16 16
      mulFlags (hi != 0#16) (setReg16 .ax (p.extractLsb' 0 16) (setReg16 .dx hi s))

/-- R313. -/
def execImul (e : EOp) (s : State) : Answer :=
  .next <|
    match e with
    | .b rm =>
      let (v, s) := readRM8 rm s
      let p := (reg8 .al s).signExtend 16 * v.signExtend 16
      mulFlags (p != (lowByte p).signExtend 16) (setReg16 .ax p s)
    | .w rm =>
      let (v, s) := readRM16 rm s
      let p := (reg16 .ax s).signExtend 32 * v.signExtend 32
      let lo : Word := p.extractLsb' 0 16
      mulFlags (p != lo.signExtend 32) (setReg16 .ax lo (setReg16 .dx (p.extractLsb' 16 16) s))

/-! ## Divide -/

/-- The divide error (R765): vector 0 with the next instruction's IP. The image pushed holds the flags of the
instruction's start; the six arithmetic flags are free afterwards (log 13). -/
def divideError (s : State) : Answer :=
  match interrupt 0 s.ip s with
  | .next s => .next (undefine arithFlags s)
  | .fault r => .fault r
  | .refused r => .refused r

/-- R314. -/
def execDiv (e : EOp) (s : State) : Answer :=
  match e with
  | .b rm =>
    let (v, s) := readRM8 rm s
    let n := (reg16 .ax s).toNat
    let d := v.toNat
    if d = 0 ∨ 0xFF < n / d then divideError s
    else .next (undefine arithFlags
      (setReg8 .ah (BitVec.ofNat 8 (n % d)) (setReg8 .al (BitVec.ofNat 8 (n / d)) s)))
  | .w rm =>
    let (v, s) := readRM16 rm s
    let n := (reg16 .dx s ++ reg16 .ax s).toNat
    let d := v.toNat
    if d = 0 ∨ 0xFFFF < n / d then divideError s
    else .next (undefine arithFlags
      (setReg16 .dx (BitVec.ofNat 16 (n % d)) (setReg16 .ax (BitVec.ofNat 16 (n / d)) s)))

/-- `lo` of R315: the least quotient, for the most negative value `-m`. -/
def idivLeast (m : Int) (s : State) : Int := if s.params.idivAllowMostNegative then -m else 1 - m

/-- R315: the quotient truncates toward zero, the remainder takes the dividend's sign. -/
def execIdiv (e : EOp) (s : State) : Answer :=
  match e with
  | .b rm =>
    let (v, s) := readRM8 rm s
    let n := (reg16 .ax s).toInt
    let d := v.toInt
    if d = 0 ∨ 127 < n.tdiv d ∨ n.tdiv d < idivLeast 128 s then divideError s
    else .next (undefine arithFlags
      (setReg8 .ah (BitVec.ofInt 8 (n.tmod d)) (setReg8 .al (BitVec.ofInt 8 (n.tdiv d)) s)))
  | .w rm =>
    let (v, s) := readRM16 rm s
    let n := (reg16 .dx s ++ reg16 .ax s).toInt
    let d := v.toInt
    if d = 0 ∨ 32767 < n.tdiv d ∨ n.tdiv d < idivLeast 32768 s then divideError s
    else .next (undefine arithFlags
      (setReg16 .dx (BitVec.ofInt 16 (n.tmod d)) (setReg16 .ax (BitVec.ofInt 16 (n.tdiv d)) s)))

/-! ## Decimal adjust -/

/-- The low-digit test of R316 to R319. -/
def lowDigitAdjust (s : State) : Bool := 9 < (reg8 .al s &&& 0x0F#8).toNat || flag .af s

/-- R316. -/
def execDaa (s : State) : Answer :=
  .next <|
    let old := reg8 .al s
    let oldCF := flag .cf s
    let low := lowDigitAdjust s
    let high := 0x99 < old.toNat || oldCF
    let al := (if low then old + 6 else old) + (if high then 0x60#8 else 0#8)
    let s := setFlag .cf high (setFlag .af low (setReg8 .al al s))
    undefine [.of] (szpFlags al s)

/-- R317: CF can stay set from the first step. -/
def execDas (s : State) : Answer :=
  .next <|
    let old := reg8 .al s
    let oldCF := flag .cf s
    let low := lowDigitAdjust s
    let high := 0x99 < old.toNat || oldCF
    let al := (if low then old - 6 else old) - (if high then 0x60#8 else 0#8)
    let s := setFlag .cf (high || (low && (oldCF || old.toNat < 6))) (setFlag .af low (setReg8 .al al s))
    undefine [.of] (szpFlags al s)

/-- AAA and AAS (R318, R319): AL and AH adjusted by the given functions, AF and CF the same. -/
def asciiAdjust (al ah : Byte → Byte) (s : State) : State :=
  let adjust := lowDigitAdjust s
  let s := if adjust then setReg8 .ah (ah (reg8 .ah s)) (setReg8 .al (al (reg8 .al s)) s) else s
  let s := setReg8 .al (reg8 .al s &&& 0x0F#8) s
  undefine [.of, .sf, .zf, .pf] (setFlag .cf adjust (setFlag .af adjust s))

/-- R318. -/
def execAaa (s : State) : Answer := .next (asciiAdjust (· + 6) (· + 1) s)
/-- R319. -/
def execAas (s : State) : Answer := .next (asciiAdjust (· - 6) (· - 1) s)

/-- R320. -/
def execAam (i : Byte) (s : State) : Answer :=
  if i = 0#8 then divideError s
  else .next <|
    let al := reg8 .al s
    let s := setReg8 .al (al % i) (setReg8 .ah (al / i) s)
    undefine [.of, .af, .cf] (szpFlags (al % i) s)

/-- R321. -/
def execAad (i : Byte) (s : State) : Answer :=
  .next <|
    let al := reg8 .al s + reg8 .ah s * i
    undefine [.of, .af, .cf] (szpFlags al (setReg8 .ah 0#8 (setReg8 .al al s)))

end Sys2Proof.Machine
end

