-- ==== Sys2Proof/Machine/Control.lean ====
section
/-! DEFINITION. The control transfer instructions (spec/44_control_transfer.md R460 to R497). `ip` of the
state is IPn. -/

namespace Sys2Proof.Machine

/-- A jump relative to IPn (R460, R473), and the target. -/
def relTarget (rel : Byte) (s : State) : Word := s.ip + rel.signExtend 16
def jumpRel (rel : Byte) (s : State) : State := s.setIp (relTarget rel s)

/-- A jump taken on a condition (R473). -/
def jumpIf (c : State → Bool) (rel : Byte) (s : State) : State := if c s then jumpRel rel s else s

/-- A far transfer. -/
def jumpFar (off seg : Word) (s : State) : State := setSreg .cs seg (s.setIp off)

/-! ## Jumps -/

/-- R460. -/
def execJmpShort (rel : Byte) (s : State) : Answer := .next (jumpRel rel s)
/-- R461. -/
def execJmpNear (rel : Word) (s : State) : Answer := .next (s.setIp (s.ip + rel))
/-- R462. -/
def execJmpFar (off seg : Word) (s : State) : Answer := .next (jumpFar off seg s)
/-- R463. -/
def execJmpE (rm : RM16) (s : State) : Answer := .next (let (t, s) := readRM16 rm s; s.setIp t)

/-- R464; mod 3 is Fatal (R199). -/
def execJmpM (rm : RM16) (s : State) : Answer :=
  .next <|
    match rm with
    | .mem m => let (off, seg, s) := readFar (ea m s) s; jumpFar off seg s
    | .reg _ => raiseFatal s

/-! ## Calls and returns -/

/-- Push CS and then IPn (R466, R468). -/
def pushReturnFar (s : State) : State :=
  let s := push16 (sreg .cs s) s
  push16 s.ip s

/-- R465. -/
def execCallNear (rel : Word) (s : State) : Answer :=
  .next (let s := push16 s.ip s; s.setIp (s.ip + rel))
/-- R466. -/
def execCallFar (off seg : Word) (s : State) : Answer := .next (jumpFar off seg (pushReturnFar s))
/-- R467: the target is read before SP changes. -/
def execCallE (rm : RM16) (s : State) : Answer :=
  .next (let (t, s) := readRM16 rm s; (push16 s.ip s).setIp t)

/-- R468: the pointer is read before the pushes; mod 3 is Fatal (R199). -/
def execCallM (rm : RM16) (s : State) : Answer :=
  .next <|
    match rm with
    | .mem m => let (off, seg, s) := readFar (ea m s) s; jumpFar off seg (pushReturnFar s)
    | .reg _ => raiseFatal s

/-- IP from the stack (R469), and then CS (R471). -/
def retNear (s : State) : State := let (ip, s) := pop16 s; s.setIp ip
def retFar (s : State) : State := let s := retNear s; let (cs, s) := pop16 s; setSreg .cs cs s

/-- n bytes of the stack released (R470). -/
def releaseStack (n : Word) (s : State) : State := setReg16 .sp (reg16 .sp s + n) s

/-- R469. -/
def execRet (s : State) : Answer := .next (retNear s)
/-- R470. -/
def execRetImm (n : Word) (s : State) : Answer := .next (releaseStack n (retNear s))
/-- R471. -/
def execRetf (s : State) : Answer := .next (retFar s)
/-- R472. -/
def execRetfImm (n : Word) (s : State) : Answer := .next (releaseStack n (retFar s))

/-! ## Conditional jumps -/

/-- The even conditions of R473. -/
def condO (s : State) : Bool := flag .of s
def condB (s : State) : Bool := flag .cf s
def condZ (s : State) : Bool := flag .zf s
def condBE (s : State) : Bool := flag .cf s || flag .zf s
def condS (s : State) : Bool := flag .sf s
def condP (s : State) : Bool := flag .pf s
def condL (s : State) : Bool := flag .sf s != flag .of s
def condLE (s : State) : Bool := flag .zf s || flag .sf s != flag .of s

/-- The odd condition of a pair is the negation of the even one (R473). -/
def negated (c : State → Bool) (s : State) : Bool := !c s

/-- R474. -/
def execJo (rel : Byte) (s : State) : Answer := .next (jumpIf condO rel s)
/-- R475. -/
def execJno (rel : Byte) (s : State) : Answer := .next (jumpIf (negated condO) rel s)
/-- R476. -/
def execJb (rel : Byte) (s : State) : Answer := .next (jumpIf condB rel s)
/-- R477. -/
def execJnb (rel : Byte) (s : State) : Answer := .next (jumpIf (negated condB) rel s)
/-- R478. -/
def execJz (rel : Byte) (s : State) : Answer := .next (jumpIf condZ rel s)
/-- R479. -/
def execJnz (rel : Byte) (s : State) : Answer := .next (jumpIf (negated condZ) rel s)
/-- R480. -/
def execJbe (rel : Byte) (s : State) : Answer := .next (jumpIf condBE rel s)
/-- R481. -/
def execJa (rel : Byte) (s : State) : Answer := .next (jumpIf (negated condBE) rel s)
/-- R482. -/
def execJs (rel : Byte) (s : State) : Answer := .next (jumpIf condS rel s)
/-- R483. -/
def execJns (rel : Byte) (s : State) : Answer := .next (jumpIf (negated condS) rel s)
/-- R484. -/
def execJp (rel : Byte) (s : State) : Answer := .next (jumpIf condP rel s)
/-- R485. -/
def execJnp (rel : Byte) (s : State) : Answer := .next (jumpIf (negated condP) rel s)
/-- R486. -/
def execJl (rel : Byte) (s : State) : Answer := .next (jumpIf condL rel s)
/-- R487. -/
def execJge (rel : Byte) (s : State) : Answer := .next (jumpIf (negated condL) rel s)
/-- R488. -/
def execJle (rel : Byte) (s : State) : Answer := .next (jumpIf condLE rel s)
/-- R489. -/
def execJg (rel : Byte) (s : State) : Answer := .next (jumpIf (negated condLE) rel s)

/-! ## Loops -/

/-- CX counted down by one (R490). -/
def countDown (s : State) : State := setReg16 .cx (reg16 .cx s - 1) s

/-- CX is not 0. -/
def condCX (s : State) : Bool := reg16 .cx s != 0#16

/-- R490. -/
def execLoop (rel : Byte) (s : State) : Answer := .next (jumpIf condCX rel (countDown s))
/-- R491. -/
def execLoopz (rel : Byte) (s : State) : Answer :=
  .next (jumpIf (fun s => condCX s && condZ s) rel (countDown s))
/-- R492. -/
def execLoopnz (rel : Byte) (s : State) : Answer :=
  .next (jumpIf (fun s => condCX s && negated condZ s) rel (countDown s))
/-- R493. -/
def execJcxz (rel : Byte) (s : State) : Answer := .next (jumpIf (negated condCX) rel s)

/-! ## Software interrupts and return -/

/-- R494. -/
def execInt (n : Byte) (s : State) : Answer := interrupt n s.ip s
/-- R495. -/
def execInt3 (s : State) : Answer := interrupt 3 s.ip s
/-- R496. -/
def execInto (s : State) : Answer := if flag .of s then interrupt 4 s.ip s else .next s
/-- R497. -/
def execIret (s : State) : Answer := .next (returnFromInterrupt s)

end Sys2Proof.Machine
end

