-- ==== Sys2Proof/Machine/DataTransfer.lean ====
section
/-! DEFINITION. The prefixes (spec/30_encoding.md R173) and the data transfer instructions
(spec/40_data_transfer.md R231 to R259). A meaning runs on the state after the fetch, with IP at IPn (R171). -/

namespace Sys2Proof.Machine

/-! ## Prefixes (R173): each sets its slot -/

def execPrefixES (s : State) : Answer := .next (s.setSegOverride (some .es))
def execPrefixCS (s : State) : Answer := .next (s.setSegOverride (some .cs))
def execPrefixSS (s : State) : Answer := .next (s.setSegOverride (some .ss))
def execPrefixDS (s : State) : Answer := .next (s.setSegOverride (some .ds))
/-- R528. -/
def execLock (s : State) : Answer := .next s
def execRepne (s : State) : Answer := .next (s.setRep (some .repne))
def execRep (s : State) : Answer := .next (s.setRep (some .repe))

/-! ## MOV -/

/-- R231. -/
def execMov (f : MovForm) (s : State) : Answer :=
  .next <|
    match f with
    | .ebGb rm g => writeLoc8 (locate rm s) (reg8 g s) s
    | .ewGw rm g => writeLoc16 (locate rm s) (reg16 g s) s
    | .gbEb g rm => let (v, s) := readRM8 rm s; setReg8 g v s
    | .gwEw g rm => let (v, s) := readRM16 rm s; setReg16 g v s

/-- R232. -/
def execMovEImm (f : EImm) (s : State) : Answer :=
  .next <|
    match f with
    | .b rm i => writeLoc8 (locate rm s) i s
    | .w rm i => writeLoc16 (locate rm s) i s

/-- R233. -/
def execMovRegImm (f : RegImm) (s : State) : Answer :=
  .next <|
    match f with
    | .b r i => setReg8 r i s
    | .w r i => setReg16 r i s

/-- R234. -/
def execMovMoffs (f : MoffsForm) (s : State) : Answer :=
  .next <|
    match f with
    | .alOb o => let (v, s) := read8 (moffs o s) s; setReg8 .al v s
    | .axOw o => let (v, s) := read16 (moffs o s) s; setReg16 .ax v s
    | .obAl o => write8 (moffs o s) (reg8 .al s) s
    | .owAx o => write16 (moffs o s) (reg16 .ax s) s

/-- R235. -/
def execMovFromSreg (rm : RM16) (sr : Sreg) (s : State) : Answer :=
  .next (writeLoc16 (locate rm s) (sreg sr s) s)

/-- R236. -/
def execMovToSreg (sr : Sreg) (rm : RM16) (s : State) : Answer :=
  .next (let (v, s) := readRM16 rm s; setSreg sr v s)

/-- R236, R532: MOV CS is Fatal. -/
def execMovCS (_ : RM16) (s : State) : Answer := .next (raiseFatal s)

/-- R235, R236, R532: the segment register codes 4 to 7 are Fatal. -/
def execReservedSreg (_ : SregMove) (_ : BitVec 2) (_ : RM16) (s : State) : Answer := .next (raiseFatal s)

/-! ## PUSH and POP -/

/-- R237: PUSH SP stores the value of SP after the decrement. -/
def execPushReg (r : Reg16) (s : State) : Answer :=
  .next (push16 (if r = .sp then reg16 .sp s - 2 else reg16 r s) s)

/-- R238. -/
def execPopReg (r : Reg16) (s : State) : Answer :=
  .next (let (v, s) := pop16 s; setReg16 r v s)

/-- R239. -/
def execPushSreg (sr : Sreg) (s : State) : Answer := .next (push16 (sreg sr s) s)

/-- R240. -/
def execPopSreg (sr : Sreg) (s : State) : Answer :=
  .next (let (v, s) := pop16 s; setSreg sr v s)

/-- R241: the operand is read before SP changes. -/
def execPushE (rm : RM16) (s : State) : Answer :=
  .next (let (v, s) := readRM16 rm s; push16 v s)

/-- R242: the operand's address was found before SP changed. -/
def execPopE (rm : RM16) (s : State) : Answer :=
  .next <|
    let l := locate rm s
    let (v, s) := pop16 s
    writeLoc16 l v s

/-! ## Exchange, address and table instructions -/

/-- R243. -/
def execXchg (f : XchgForm) (s : State) : Answer :=
  .next <|
    match f with
    | .b rm g =>
      let l := locate rm s
      let (t, s) := readLoc8 l s
      setReg8 g t (writeLoc8 l (reg8 g s) s)
    | .w rm g =>
      let l := locate rm s
      let (t, s) := readLoc16 l s
      setReg16 g t (writeLoc16 l (reg16 g s) s)

/-- R244. -/
def execXchgAX (r : Reg16) (s : State) : Answer :=
  .next (setReg16 r (reg16 .ax s) (setReg16 .ax (reg16 r s) s))

/-- R245. -/
def execNop (s : State) : Answer := .next s

/-- R246: the offset alone; mod 3 is Fatal (R199). -/
def execLea (g : Reg16) (rm : RM16) (s : State) : Answer :=
  .next <|
    match rm with
    | .mem m => setReg16 g (eaOffset m s) s
    | .reg _ => raiseFatal s

/-- A far pointer into a register and a segment register (R247, R248); mod 3 is Fatal (R199). -/
def loadFar (sr : Sreg) (g : Reg16) (rm : RM16) (s : State) : State :=
  match rm with
  | .mem m =>
    let (off, seg, s) := readFar (ea m s) s
    setSreg sr seg (setReg16 g off s)
  | .reg _ => raiseFatal s

/-- R247. -/
def execLds (g : Reg16) (rm : RM16) (s : State) : Answer := .next (loadFar .ds g rm s)

/-- R248. -/
def execLes (g : Reg16) (rm : RM16) (s : State) : Answer := .next (loadFar .es g rm s)

/-- R249. -/
def execXlat (s : State) : Answer :=
  .next <|
    let a := lin (sreg (overridden .ds s) s) (reg16 .bx s + (reg8 .al s).setWidth 16)
    let (v, s) := read8 a s
    setReg8 .al v s

/-! ## Ports -/

/-- A port read into AL or AX (R250, R251). -/
def inPort (a : Acc) (p : Word) (s : State) : State :=
  match a with
  | .al => let (v, s) := portRead8 p s; setReg8 .al v s
  | .ax => let (v, s) := portRead16 p s; setReg16 .ax v s

/-- A port written from AL or AX (R252, R253). -/
def outPort (a : Acc) (p : Word) (s : State) : State :=
  match a with
  | .al => portWrite8 p (reg8 .al s) s
  | .ax => portWrite16 p (reg16 .ax s) s

/-- R250. -/
def execInImm (a : Acc) (port : Byte) (s : State) : Answer := .next (inPort a (port.setWidth 16) s)

/-- R251. -/
def execInDX (a : Acc) (s : State) : Answer := .next (inPort a (reg16 .dx s) s)

/-- R252. -/
def execOutImm (port : Byte) (a : Acc) (s : State) : Answer := .next (outPort a (port.setWidth 16) s)

/-- R253. -/
def execOutDX (a : Acc) (s : State) : Answer := .next (outPort a (reg16 .dx s) s)

/-! ## Flag transfer and sign extension -/

/-- R254. -/
def execLahf (s : State) : Answer := .next (setReg8 .ah (lowByte (flagsWord s)) s)

/-- R255. -/
def execSahf (s : State) : Answer :=
  .next <|
    let ah := reg8 .ah s
    s.setFlags { s.flags with
      SF := ah.getLsbD 7, ZF := ah.getLsbD 6, AF := ah.getLsbD 4, PF := ah.getLsbD 2, CF := ah.getLsbD 0 }

/-- R256. -/
def execPushf (s : State) : Answer := .next (push16 (flagsWord s) s)

/-- R257. -/
def execPopf (s : State) : Answer :=
  .next (let (v, s) := pop16 s; setFlagsWord v s)

/-- R258. -/
def execCbw (s : State) : Answer := .next (setReg16 .ax ((reg8 .al s).signExtend 16) s)

/-- R259. -/
def execCwd (s : State) : Answer :=
  .next (setReg16 .dx (if (reg16 .ax s).msb then 0xFFFF#16 else 0x0000#16) s)

end Sys2Proof.Machine
end

