-- ==== Sys2Proof/Machine/Strings.lean ====
section
/-! DEFINITION. The string instructions and the repeat loop (spec/43_string.md R420 to R427). -/

namespace Sys2Proof.Machine

/-! ## Addressing (R420) -/

def sourceAddr (s : State) : Linear := lin (sreg (overridden .ds s) s) (reg16 .si s)
def destAddr (s : State) : Linear := lin (sreg .es s) (reg16 .di s)

/-- `delta` for elements of n bytes. -/
def delta (n : Word) (s : State) : Word := if flag .df s then -n else n

def advanceSI (n : Word) (s : State) : State := setReg16 .si (reg16 .si s + delta n s) s
def advanceDI (n : Word) (s : State) : State := setReg16 .di (reg16 .di s + delta n s) s

/-! ## The repeat loop (R421) -/

/-- The early exit of CMPS and SCAS: REPE on ZF = 0, REPNE on ZF = 1. -/
def repExit (p : RepPrefix) (s : State) : Bool :=
  match p with
  | .repe => !flag .zf s
  | .repne => flag .zf s

/-- At most n elements, CX counted down after each. -/
def repLoop (elem : State → State) (exit : State → Bool) : Nat → State → State
  | 0, s => s
  | n + 1, s =>
    let s := elem s
    let s := setReg16 .cx (reg16 .cx s - 1) s
    if exit s then s else repLoop elem exit n s

/-- A string instruction: one element without a repeat prefix, else the loop while CX is not 0. -/
def repeated (compares : Bool) (elem : State → State) (s : State) : State :=
  match s.rep with
  | none => elem s
  | some p => repLoop elem (fun s => compares && repExit p s) (reg16 .cx s).toNat s

/-! ## The elements -/

def movsbElem (s : State) : State :=
  let (v, s) := read8 (sourceAddr s) s
  advanceDI 1 (advanceSI 1 (write8 (destAddr s) v s))

def movswElem (s : State) : State :=
  let (v, s) := read16 (sourceAddr s) s
  advanceDI 2 (advanceSI 2 (write16 (destAddr s) v s))

def cmpsbElem (s : State) : State :=
  let (a, s) := read8 (sourceAddr s) s
  let (b, s) := read8 (destAddr s) s
  advanceDI 1 (advanceSI 1 (subFlags a b false s))

def cmpswElem (s : State) : State :=
  let (a, s) := read16 (sourceAddr s) s
  let (b, s) := read16 (destAddr s) s
  advanceDI 2 (advanceSI 2 (subFlags a b false s))

def scasbElem (s : State) : State :=
  let (b, s) := read8 (destAddr s) s
  advanceDI 1 (subFlags (reg8 .al s) b false s)

def scaswElem (s : State) : State :=
  let (b, s) := read16 (destAddr s) s
  advanceDI 2 (subFlags (reg16 .ax s) b false s)

def lodsbElem (s : State) : State :=
  let (v, s) := read8 (sourceAddr s) s
  advanceSI 1 (setReg8 .al v s)

def lodswElem (s : State) : State :=
  let (v, s) := read16 (sourceAddr s) s
  advanceSI 2 (setReg16 .ax v s)

def stosbElem (s : State) : State := advanceDI 1 (write8 (destAddr s) (reg8 .al s) s)
def stoswElem (s : State) : State := advanceDI 2 (write16 (destAddr s) (reg16 .ax s) s)

/-! ## The instructions -/

/-- R422. -/
def execMovsb (s : State) : Answer := .next (repeated false movsbElem s)
/-- R422. -/
def execMovsw (s : State) : Answer := .next (repeated false movswElem s)
/-- R423. -/
def execCmpsb (s : State) : Answer := .next (repeated true cmpsbElem s)
/-- R423. -/
def execCmpsw (s : State) : Answer := .next (repeated true cmpswElem s)
/-- R424. -/
def execScasb (s : State) : Answer := .next (repeated true scasbElem s)
/-- R424. -/
def execScasw (s : State) : Answer := .next (repeated true scaswElem s)
/-- R425. -/
def execLodsb (s : State) : Answer := .next (repeated false lodsbElem s)
/-- R425. -/
def execLodsw (s : State) : Answer := .next (repeated false lodswElem s)
/-- R426. -/
def execStosb (s : State) : Answer := .next (repeated false stosbElem s)
/-- R426. -/
def execStosw (s : State) : Answer := .next (repeated false stoswElem s)

end Sys2Proof.Machine
end

