-- ==== Sys2Proof/Machine/Ext186.lean ====
section
/-! DEFINITION. The 80186 instructions (spec/46_ext186.md R561 to R570), which the decoder answers only when
EXT186 holds (R560, log 11). -/

namespace Sys2Proof.Machine

/-- Push a register's value. -/
def pushRegValue (r : Reg16) (s : State) : State := push16 (reg16 r s) s

/-- R561: the SP pushed is the one before the instruction. -/
def execPusha (s : State) : Answer :=
  .next <|
    let t := reg16 .sp s
    let s := pushRegValue .bx (pushRegValue .dx (pushRegValue .cx (pushRegValue .ax s)))
    let s := push16 t s
    pushRegValue .di (pushRegValue .si (pushRegValue .bp s))

/-- Pop into a register. -/
def popInto (r : Reg16) (s : State) : State := let (v, s) := pop16 s; setReg16 r v s

/-- R562: the SP image is discarded. -/
def execPopa (s : State) : Answer :=
  .next <|
    let s := popInto .bp (popInto .si (popInto .di s))
    let s := (pop16 s).2
    popInto .ax (popInto .cx (popInto .dx (popInto .bx s)))

/-- R563: INT 5 with the IP of the instruction's first byte; mod 3 is Fatal (R199). -/
def execBound (g : Reg16) (rm : RM16) (s : State) : Answer :=
  match rm with
  | .mem m =>
    let (lo, hi, s) := readFar (ea m s) s
    if (reg16 g s).toInt < lo.toInt ∨ hi.toInt < (reg16 g s).toInt then interrupt 5 s.instrIP s else .next s
  | .reg _ => .next (raiseFatal s)

/-- R564. -/
def execPushIw (i : Word) (s : State) : Answer := .next (push16 i s)
/-- R565. -/
def execPushIbs (i : Byte) (s : State) : Answer := .next (push16 (i.signExtend 16) s)

/-- The immediate of R566. -/
def imulImmValue : ImulImm → Word
  | .iw i => i
  | .ibs i => i.signExtend 16

/-- R566: CF and OF when the product is not its low word sign-extended; SF, ZF, AF and PF are free. -/
def execImulImm (g : Reg16) (rm : RM16) (k : ImulImm) (s : State) : Answer :=
  .next <|
    let (v, s) := readRM16 rm s
    let p := v.toInt * (imulImmValue k).toInt
    let r := BitVec.ofInt 16 p
    let s := setFlag .of (p != r.toInt) (setFlag .cf (p != r.toInt) (setReg16 g r s))
    undefine [.sf, .zf, .af, .pf] s

def insbElem (s : State) : State :=
  let (v, s) := portRead8 (reg16 .dx s) s
  advanceDI 1 (write8 (destAddr s) v s)

def inswElem (s : State) : State :=
  let (v, s) := portRead16 (reg16 .dx s) s
  advanceDI 2 (write16 (destAddr s) v s)

def outsbElem (s : State) : State :=
  let (v, s) := read8 (sourceAddr s) s
  advanceSI 1 (portWrite8 (reg16 .dx s) v s)

def outswElem (s : State) : State :=
  let (v, s) := read16 (sourceAddr s) s
  advanceSI 2 (portWrite16 (reg16 .dx s) v s)

/-- R567. -/
def execInsb (s : State) : Answer := .next (repeated false insbElem s)
/-- R567. -/
def execInsw (s : State) : Answer := .next (repeated false inswElem s)
/-- R568. -/
def execOutsb (s : State) : Answer := .next (repeated false outsbElem s)
/-- R568. -/
def execOutsw (s : State) : Answer := .next (repeated false outswElem s)

/-- The frame pointers copied by a nested ENTER (R569): BP steps down and the word there is pushed. -/
def enterCopy : Nat → State → State
  | 0, s => s
  | n + 1, s =>
    let s := setReg16 .bp (reg16 .bp s - 2) s
    let (v, s) := read16 (lin (sreg .ss s) (reg16 .bp s)) s
    enterCopy n (push16 v s)

/-- R569. -/
def execEnter (size : Word) (level : Byte) (s : State) : Answer :=
  .next <|
    let l := level.toNat % 32
    let s := pushRegValue .bp s
    let f := reg16 .sp s
    let s := if l = 0 then s else push16 f (enterCopy (l - 1) s)
    let s := setReg16 .bp f s
    setReg16 .sp (reg16 .sp s - size) s

/-- R570. -/
def execLeave (s : State) : Answer := .next (popInto .bp (setReg16 .sp (reg16 .bp s) s))

end Sys2Proof.Machine
end

