-- ==== Sys2Proof/Machine/Logic.lean ====
section
/-! DEFINITION. The logic, shift and rotate instructions (spec/42_logic_shift.md R371 to R384). -/

namespace Sys2Proof.Machine

/-! ## Logic -/

/-- A bitwise operation with `LogicFlags` (R370). -/
def logicOp (op : (w : Nat) → BitVec w → BitVec w → BitVec w) : BinOp := fun w d v s =>
  (op w d v, logicFlags (op w d v) s)

def andBits (w : Nat) (a b : BitVec w) : BitVec w := a &&& b
def orBits (w : Nat) (a b : BitVec w) : BitVec w := a ||| b
def xorBits (w : Nat) (a b : BitVec w) : BitVec w := a ^^^ b

/-- R371. -/
def execAnd (f : AluForm) (s : State) : Answer := .next (aluStore (logicOp andBits) f s)
/-- R372. -/
def execOr (f : AluForm) (s : State) : Answer := .next (aluStore (logicOp orBits) f s)
/-- R373. -/
def execXor (f : AluForm) (s : State) : Answer := .next (aluStore (logicOp xorBits) f s)

/-- R374: no operand is written. -/
def execTest (f : TestForm) (s : State) : Answer :=
  .next <|
    match f with
    | .ebGb rm g => let (v, s) := readRM8 rm s; logicFlags (v &&& reg8 g s) s
    | .ewGw rm g => let (v, s) := readRM16 rm s; logicFlags (v &&& reg16 g s) s
    | .alIb i => logicFlags (reg8 .al s &&& i) s
    | .axIw i => logicFlags (reg16 .ax s &&& i) s
    | .ebIb rm i => let (v, s) := readRM8 rm s; logicFlags (v &&& i) s
    | .ewIw rm i => let (v, s) := readRM16 rm s; logicFlags (v &&& i) s

/-- R375. -/
def execNot (e : EOp) (s : State) : Answer := .next (unaryStore (fun _ d s => (~~~d, s)) e s)

/-! ## Shifts and rotates -/

/-- The effective count (R376). -/
def shiftCount (c : ShiftCount) (s : State) : Nat :=
  let raw : Byte :=
    match c with
    | .imm i => i
    | .one => 1#8
    | .cl => reg8 .cl s
  (raw &&& s.params.shiftCountMask).toNat

/-- The operand and CF after one bit step of each operation (R378 to R384). -/
structure Shifter where
  /-- One step, from the operand and CF. -/
  step : (w : Nat) → BitVec w → Bool → BitVec w × Bool
  /-- OF when the count is 1, from the operand before, the operand after and CF. -/
  overflow : (w : Nat) → BitVec w → BitVec w → Bool → Bool
  /-- Whether SZP and AF are written too (R377): the shifts, not the rotates. -/
  isShift : Bool

/-- `n` steps (R377). -/
def shiftSteps {w : Nat} (sh : Shifter) : Nat → BitVec w → Bool → BitVec w × Bool
  | 0, x, c => (x, c)
  | n + 1, x, c =>
    let (x, c) := sh.step w x c
    shiftSteps sh n x c

/-- R377 on an operand x with a count of at least 1: the result, and the flags. -/
def shiftOp (sh : Shifter) (n : Nat) : UnOp := fun w x s =>
  let (r, c) := shiftSteps sh n x (flag .cf s)
  let s := setFlag .cf c s
  let s := if n = 1 then setFlag .of (sh.overflow w x r c) s else undefine [.of] s
  (r, if sh.isShift then undefine [.af] (szpFlags r s) else s)

/-- R377: with a count of 0 the operand is read and nothing is written. -/
def shift (sh : Shifter) (e : EOp) (c : ShiftCount) (s : State) : State :=
  let n := shiftCount c s
  if n = 0 then
    match e with
    | .b rm => (readRM8 rm s).2
    | .w rm => (readRM16 rm s).2
  else unaryStore (shiftOp sh n) e s

/-- The bit at the top of a w-bit value, as a value. -/
def topBit (w : Nat) (b : Bool) : BitVec w := if b then BitVec.ofNat w (2 ^ (w - 1)) else 0

/-- OF of the left shifts and rotates, and of the right rotates. -/
def leftOverflow (w : Nat) (_ r : BitVec w) (c : Bool) : Bool := r.msb ^^ c
def rightRotateOverflow (w : Nat) (_ r : BitVec w) (_ : Bool) : Bool := r.msb ^^ r.getLsbD (w - 2)

def rolShifter : Shifter where
  step w x _ := ((x <<< 1) ||| BitVec.ofNat w x.msb.toNat, x.msb)
  overflow := leftOverflow
  isShift := false

def rorShifter : Shifter where
  step w x _ := ((x >>> 1) ||| topBit w (x.getLsbD 0), x.getLsbD 0)
  overflow := rightRotateOverflow
  isShift := false

def rclShifter : Shifter where
  step w x c := ((x <<< 1) ||| BitVec.ofNat w c.toNat, x.msb)
  overflow := leftOverflow
  isShift := false

def rcrShifter : Shifter where
  step w x c := ((x >>> 1) ||| topBit w c, x.getLsbD 0)
  overflow := rightRotateOverflow
  isShift := false

def shlShifter : Shifter where
  step _ x _ := (x <<< 1, x.msb)
  overflow := leftOverflow
  isShift := true

def shrShifter : Shifter where
  step _ x _ := (x >>> 1, x.getLsbD 0)
  overflow _ x _ _ := x.msb
  isShift := true

def sarShifter : Shifter where
  step w x _ := ((x >>> 1) ||| topBit w x.msb, x.getLsbD 0)
  overflow _ _ _ _ := false
  isShift := true

/-- R378. -/
def execRol (e : EOp) (c : ShiftCount) (s : State) : Answer := .next (shift rolShifter e c s)
/-- R379. -/
def execRor (e : EOp) (c : ShiftCount) (s : State) : Answer := .next (shift rorShifter e c s)
/-- R380. -/
def execRcl (e : EOp) (c : ShiftCount) (s : State) : Answer := .next (shift rclShifter e c s)
/-- R381. -/
def execRcr (e : EOp) (c : ShiftCount) (s : State) : Answer := .next (shift rcrShifter e c s)
/-- R382. -/
def execShl (e : EOp) (c : ShiftCount) (s : State) : Answer := .next (shift shlShifter e c s)
/-- R383. -/
def execShr (e : EOp) (c : ShiftCount) (s : State) : Answer := .next (shift shrShifter e c s)
/-- R384. -/
def execSar (e : EOp) (c : ShiftCount) (s : State) : Answer := .next (shift sarShifter e c s)

end Sys2Proof.Machine
end

