-- ==== Sys2Proof/Machine/Processor.lean ====
section
/-! DEFINITION. The processor control instructions and the unmapped encodings
(spec/45_processor_control.md R520 to R532). -/

namespace Sys2Proof.Machine

/-- R520. -/
def execClc (s : State) : Answer := .next (setFlag .cf false s)
/-- R521. -/
def execStc (s : State) : Answer := .next (setFlag .cf true s)
/-- R522. -/
def execCmc (s : State) : Answer := .next (setFlag .cf (!flag .cf s) s)
/-- R523. -/
def execCld (s : State) : Answer := .next (setFlag .df false s)
/-- R524. -/
def execStd (s : State) : Answer := .next (setFlag .df true s)
/-- R526. -/
def execCli (s : State) : Answer := .next (setFlag .if false s)
/-- R529. -/
def execSti (s : State) : Answer := .next (setFlag .if true s)
/-- R525. -/
def execHlt (s : State) : Answer := .next (s.setRun .halted)
/-- R527: no effect. -/
def execWait (s : State) : Answer := .next s
/-- R530: the operand is not used and no memory access is made. -/
def execEsc (_ : BitVec 3) (_ : BitVec 3) (_ : RM16) (s : State) : Answer := .next s
/-- R531. -/
def execUndefByte (_ : Byte) (s : State) : Answer := .next (raiseFatal s)
/-- R532. -/
def execUndefSlot (_ : Byte) (_ : BitVec 3) (_ : RM16) (s : State) : Answer := .next (raiseFatal s)

end Sys2Proof.Machine
end

