-- ==== Sys2Proof/Machine/Dispatch.lean ====
section
/-! DEFINITION. The meaning of each instruction, by name: one arm for each constructor of `Instr`. -/

namespace Sys2Proof.Machine

def exec (i : Instr) (s : State) : Host.Outcome State Fault Refusal :=
  match i with
  | .prefixES => Sys2Proof.Machine.execPrefixES s
  | .prefixCS => Sys2Proof.Machine.execPrefixCS s
  | .prefixSS => Sys2Proof.Machine.execPrefixSS s
  | .prefixDS => Sys2Proof.Machine.execPrefixDS s
  | .lock => Sys2Proof.Machine.execLock s
  | .repne => Sys2Proof.Machine.execRepne s
  | .rep => Sys2Proof.Machine.execRep s
  | .mov f => Sys2Proof.Machine.execMov f s
  | .movEImm f => Sys2Proof.Machine.execMovEImm f s
  | .movRegImm f => Sys2Proof.Machine.execMovRegImm f s
  | .movMoffs f => Sys2Proof.Machine.execMovMoffs f s
  | .movFromSreg rm sr => Sys2Proof.Machine.execMovFromSreg rm sr s
  | .movToSreg sr rm => Sys2Proof.Machine.execMovToSreg sr rm s
  | .movCS rm => Sys2Proof.Machine.execMovCS rm s
  | .reservedSreg m k rm => Sys2Proof.Machine.execReservedSreg m k rm s
  | .pushReg r => Sys2Proof.Machine.execPushReg r s
  | .popReg r => Sys2Proof.Machine.execPopReg r s
  | .pushSreg sr => Sys2Proof.Machine.execPushSreg sr s
  | .popSreg sr => Sys2Proof.Machine.execPopSreg sr s
  | .pushE rm => Sys2Proof.Machine.execPushE rm s
  | .popE rm => Sys2Proof.Machine.execPopE rm s
  | .xchg f => Sys2Proof.Machine.execXchg f s
  | .xchgAX r => Sys2Proof.Machine.execXchgAX r s
  | .nop => Sys2Proof.Machine.execNop s
  | .lea g rm => Sys2Proof.Machine.execLea g rm s
  | .lds g rm => Sys2Proof.Machine.execLds g rm s
  | .les g rm => Sys2Proof.Machine.execLes g rm s
  | .xlat => Sys2Proof.Machine.execXlat s
  | .inImm a port => Sys2Proof.Machine.execInImm a port s
  | .inDX a => Sys2Proof.Machine.execInDX a s
  | .outImm port a => Sys2Proof.Machine.execOutImm port a s
  | .outDX a => Sys2Proof.Machine.execOutDX a s
  | .lahf => Sys2Proof.Machine.execLahf s
  | .sahf => Sys2Proof.Machine.execSahf s
  | .pushf => Sys2Proof.Machine.execPushf s
  | .popf => Sys2Proof.Machine.execPopf s
  | .cbw => Sys2Proof.Machine.execCbw s
  | .cwd => Sys2Proof.Machine.execCwd s
  | .add f => Sys2Proof.Machine.execAdd f s
  | .adc f => Sys2Proof.Machine.execAdc f s
  | .sub f => Sys2Proof.Machine.execSub f s
  | .sbb f => Sys2Proof.Machine.execSbb f s
  | .cmp f => Sys2Proof.Machine.execCmp f s
  | .incReg r => Sys2Proof.Machine.execIncReg r s
  | .incE e => Sys2Proof.Machine.execIncE e s
  | .decReg r => Sys2Proof.Machine.execDecReg r s
  | .decE e => Sys2Proof.Machine.execDecE e s
  | .neg e => Sys2Proof.Machine.execNeg e s
  | .mul e => Sys2Proof.Machine.execMul e s
  | .imul e => Sys2Proof.Machine.execImul e s
  | .div e => Sys2Proof.Machine.execDiv e s
  | .idiv e => Sys2Proof.Machine.execIdiv e s
  | .daa => Sys2Proof.Machine.execDaa s
  | .das => Sys2Proof.Machine.execDas s
  | .aaa => Sys2Proof.Machine.execAaa s
  | .aas => Sys2Proof.Machine.execAas s
  | .aam imm => Sys2Proof.Machine.execAam imm s
  | .aad imm => Sys2Proof.Machine.execAad imm s
  | .and f => Sys2Proof.Machine.execAnd f s
  | .or f => Sys2Proof.Machine.execOr f s
  | .xor f => Sys2Proof.Machine.execXor f s
  | .test f => Sys2Proof.Machine.execTest f s
  | .not e => Sys2Proof.Machine.execNot e s
  | .rol e c => Sys2Proof.Machine.execRol e c s
  | .ror e c => Sys2Proof.Machine.execRor e c s
  | .rcl e c => Sys2Proof.Machine.execRcl e c s
  | .rcr e c => Sys2Proof.Machine.execRcr e c s
  | .shl e c => Sys2Proof.Machine.execShl e c s
  | .shr e c => Sys2Proof.Machine.execShr e c s
  | .sar e c => Sys2Proof.Machine.execSar e c s
  | .movsb => Sys2Proof.Machine.execMovsb s
  | .movsw => Sys2Proof.Machine.execMovsw s
  | .cmpsb => Sys2Proof.Machine.execCmpsb s
  | .cmpsw => Sys2Proof.Machine.execCmpsw s
  | .scasb => Sys2Proof.Machine.execScasb s
  | .scasw => Sys2Proof.Machine.execScasw s
  | .lodsb => Sys2Proof.Machine.execLodsb s
  | .lodsw => Sys2Proof.Machine.execLodsw s
  | .stosb => Sys2Proof.Machine.execStosb s
  | .stosw => Sys2Proof.Machine.execStosw s
  | .jmpShort rel => Sys2Proof.Machine.execJmpShort rel s
  | .jmpNear rel => Sys2Proof.Machine.execJmpNear rel s
  | .jmpFar off seg => Sys2Proof.Machine.execJmpFar off seg s
  | .jmpE rm => Sys2Proof.Machine.execJmpE rm s
  | .jmpM rm => Sys2Proof.Machine.execJmpM rm s
  | .callNear rel => Sys2Proof.Machine.execCallNear rel s
  | .callFar off seg => Sys2Proof.Machine.execCallFar off seg s
  | .callE rm => Sys2Proof.Machine.execCallE rm s
  | .callM rm => Sys2Proof.Machine.execCallM rm s
  | .ret => Sys2Proof.Machine.execRet s
  | .retImm n => Sys2Proof.Machine.execRetImm n s
  | .retf => Sys2Proof.Machine.execRetf s
  | .retfImm n => Sys2Proof.Machine.execRetfImm n s
  | .jo rel => Sys2Proof.Machine.execJo rel s
  | .jno rel => Sys2Proof.Machine.execJno rel s
  | .jb rel => Sys2Proof.Machine.execJb rel s
  | .jnb rel => Sys2Proof.Machine.execJnb rel s
  | .jz rel => Sys2Proof.Machine.execJz rel s
  | .jnz rel => Sys2Proof.Machine.execJnz rel s
  | .jbe rel => Sys2Proof.Machine.execJbe rel s
  | .ja rel => Sys2Proof.Machine.execJa rel s
  | .js rel => Sys2Proof.Machine.execJs rel s
  | .jns rel => Sys2Proof.Machine.execJns rel s
  | .jp rel => Sys2Proof.Machine.execJp rel s
  | .jnp rel => Sys2Proof.Machine.execJnp rel s
  | .jl rel => Sys2Proof.Machine.execJl rel s
  | .jge rel => Sys2Proof.Machine.execJge rel s
  | .jle rel => Sys2Proof.Machine.execJle rel s
  | .jg rel => Sys2Proof.Machine.execJg rel s
  | .loop rel => Sys2Proof.Machine.execLoop rel s
  | .loopz rel => Sys2Proof.Machine.execLoopz rel s
  | .loopnz rel => Sys2Proof.Machine.execLoopnz rel s
  | .jcxz rel => Sys2Proof.Machine.execJcxz rel s
  | .int n => Sys2Proof.Machine.execInt n s
  | .int3 => Sys2Proof.Machine.execInt3 s
  | .into => Sys2Proof.Machine.execInto s
  | .iret => Sys2Proof.Machine.execIret s
  | .clc => Sys2Proof.Machine.execClc s
  | .stc => Sys2Proof.Machine.execStc s
  | .cmc => Sys2Proof.Machine.execCmc s
  | .cld => Sys2Proof.Machine.execCld s
  | .std => Sys2Proof.Machine.execStd s
  | .cli => Sys2Proof.Machine.execCli s
  | .sti => Sys2Proof.Machine.execSti s
  | .hlt => Sys2Proof.Machine.execHlt s
  | .wait => Sys2Proof.Machine.execWait s
  | .esc x reg rm => Sys2Proof.Machine.execEsc x reg rm s
  | .pusha => Sys2Proof.Machine.execPusha s
  | .popa => Sys2Proof.Machine.execPopa s
  | .bound g rm => Sys2Proof.Machine.execBound g rm s
  | .pushIw imm => Sys2Proof.Machine.execPushIw imm s
  | .pushIbs imm => Sys2Proof.Machine.execPushIbs imm s
  | .imulImm g rm k => Sys2Proof.Machine.execImulImm g rm k s
  | .insb => Sys2Proof.Machine.execInsb s
  | .insw => Sys2Proof.Machine.execInsw s
  | .outsb => Sys2Proof.Machine.execOutsb s
  | .outsw => Sys2Proof.Machine.execOutsw s
  | .enter size level => Sys2Proof.Machine.execEnter size level s
  | .leave => Sys2Proof.Machine.execLeave s
  | .undefByte op => Sys2Proof.Machine.execUndefByte op s
  | .undefSlot op reg rm => Sys2Proof.Machine.execUndefSlot op reg rm s

end Sys2Proof.Machine
end

