-- ==== Sys2Proof/Machine/Cycle.lean ====
section
/-! DEFINITION. One instruction with its prefixes and its single-step trap (spec/30_encoding.md R173,
spec/60_exceptions.md R776). -/

namespace Sys2Proof.Machine

/-- The start of an instruction: both prefix slots empty, and IP0 (R173, R563). -/
def beginInstr (s : State) : State := ((s.setSegOverride none).setRep none).setInstrIP s.ip

/-- The end of an instruction: both slots empty again (R38, R173), after a Fatal one too (DESIGN CHOICE, log 16), and
IP0 forgotten (log 15). -/
def endInstr (s : State) : State := ((s.setSegOverride none).setRep none).setInstrIP 0x0000#16

/-- The prefix loop of R173 over at most n bytes, then the instruction; none where all n bytes are prefixes. More
than 65536 prefixes in a row are the whole code segment, which is then fetched forever (log 10). -/
def prefixLoop : Nat → State → Option Answer
  | 0, _ => none
  | n + 1, s =>
    match fetch s with
    | .error _ => some (.refused .undecodable)
    | .ok (i, s) =>
      if i.isPrefix then
        match exec i s with
        | .next s => prefixLoop n s
        | .fault r => some (.fault r)
        | .refused r => some (.refused r)
      else some (exec i s)

/-- The prefixes a code segment can hold. -/
def maxPrefixes : Nat := 65536

/-- Whether a single-step trap can follow (R776): not from a fatal or stopped state. -/
def canTrap (s : State) : Bool :=
  match s.run with
  | .running | .halted => true
  | .fatal _ | .stopped => false

/-- The single-step trap, t being TF at the start of the instruction (R776). A Fatal instruction takes none, and
ends the batch (R770). -/
def singleStep (t : Bool) (s : State) : Answer :=
  if canTrap s then (if t then interrupt 1 s.ip s else .next s) else .next (s.setBatch none)

/-- What follows an instruction: its slots are cleared, and the trap is taken. -/
def finishInstr (t : Bool) (a : Answer) : Answer :=
  match a with
  | .next s => singleStep t (endInstr s)
  | .fault r => .fault r
  | .refused r => .refused r

/-- One instruction (R173, R776); none where it never comes to its opcode. -/
def instrCycle (s : State) : Option Answer :=
  (prefixLoop (maxPrefixes + 1) (beginInstr s)).map (finishInstr (flag .tf s))

/-- One slot of a batch (R871), k slots being left after it: an instruction if the CPU runs, nothing if it is halted.
An endless run of prefixes is a hang inside the slot (R173): the step answers the state in which its instruction
starts, the slot still to come, and so does every later one (log 10). -/
def batchSlot (k : Nat) (s : State) : Answer :=
  match s.run with
  | .running => (instrCycle (s.setBatch (some k))).getD (.next (s.setBatch (some (k + 1))))
  | .halted | .fatal _ | .stopped => .next (s.setBatch (some k))

end Sys2Proof.Machine
end

