-- ==== Sys2Proof/Machine/HostLoop.lean ====
section
/-! DEFINITION. The batch loop and the host's operations (spec/60_exceptions.md R790, spec/70_reset_and_hazards.md
R851, R860 to R873), and placing a program's bytes where the next fetch reads them. -/

namespace Sys2Proof.Machine

/-! ## The batch boundary -/

/-- General registers of free words (R50). -/
def drawRegs (k : Nat) : Regs where
  ax := Config.drawWord k
  cx := Config.drawWord (k + 1)
  dx := Config.drawWord (k + 2)
  bx := Config.drawWord (k + 3)
  sp := Config.drawWord (k + 4)
  bp := Config.drawWord (k + 5)
  si := Config.drawWord (k + 6)
  di := Config.drawWord (k + 7)

/-- The hard reset (R860): the CPU state of R50, and `hard_reset` off; nothing else changes. -/
def hardResetCpu (s : State) : State :=
  let s := (s.setRegs (drawRegs s.draws)).setDraws (s.draws + 8)
  let s := ((s.setSregs .reset).setIp 0x0000#16).setFlags .reset
  let s := ((s.setSegOverride none).setRep none).setInstrIP 0x0000#16
  (s.setRun .running).setHardReset false

/-- Step 3 of the boundary (R790): an IRQ is pending, unmasked, and may be taken. -/
def takesIrq (s : State) : Bool := canTrap s && flag .if s && s.pic.pending != 0#8

/-- The injection of an IRQ (R790, R807). -/
def injectIrq (s : State) : Answer :=
  let (v, pic) := s.pic.nextInterrupt
  interrupt v s.ip (s.setPic pic)

/-- Steps 2 and 3 of the boundary (R790). -/
def boundaryPoll (s : State) : Answer :=
  if !s.hostRunning then .next (s.setRun .stopped)
  else if takesIrq s then injectIrq s
  else .next s

/-- A batch boundary (R790). -/
def boundary (s : State) : Answer := boundaryPoll (if s.hardReset then hardResetCpu s else s)

/-- The host's loop goes on (R871): the next slot of the batch under way, or its boundary, which ends it; between
batches, the first slot of the next one. -/
def advance (s : State) : Answer :=
  match s.batch with
  | some (k + 1) => batchSlot k s
  | some 0 => boundary (s.setBatch none)
  | none => batchSlot s.params.moreSlots s

/-! ## Host operations (R870) -/

/-- The bytes of an image copied into RAM from an address on (R113), past the mask and the aperture and wrapping mod
2^20 (DESIGN CHOICE, log 19). -/
def romCopy : List Byte → Linear → Memory → Memory
  | [], _, m => m
  | b :: rest, a, m => romCopy rest (a + 1) (ramSet m a b)

/-- The read-only bits of n addresses set. -/
def romProtect : Nat → Linear → List Nat → List Nat
  | 0, _, l => l
  | n + 1, a, l => romProtect n (a + 1) (sortedInsert a.toNat l)

/-- `load_rom(base, bytes)` (R113). -/
def loadRom (base : Linear) (bytes : List Byte) (s : State) : State :=
  (s.setRam (romCopy bytes base s.ram)).setReadonly (romProtect bytes.length base s.readonly)

/-- A backing store of `size` bytes with the given contents; an offset not below the size is no byte of it. -/
def backingOf (size : Nat) (contents : List (Nat × Byte)) : Table Byte :=
  .ofList 0#8 (contents.filter fun e => e.1 < size)

/-- `insert(d, image)` (R601 to R603). -/
def insertImage (d : Byte) (size : Nat) (contents : List (Nat × Byte)) (s : State) : State :=
  let (cyls, sects, heads) := imageGeometry d size
  s.setDisk (s.disk.setAt d ⟨true, false, backingOf size contents, size, cyls, sects, heads⟩)

/-- `insert(d, raw)` (R601, R604). R604 requires sects and heads to be positive; that 0 is taken too, and the formulas of
R606 and R617 run with it, is the model's choice (DESIGN CHOICE, log 28). -/
def insertRaw (d : Byte) (size cyls sects heads : Nat) (contents : List (Nat × Byte)) (s : State) : State :=
  s.setDisk (s.disk.setAt d ⟨true, true, backingOf size contents, size, cyls, sects, heads⟩)

/-- `eject(d)` (R601): only `inserted` changes (log 20). -/
def eject (d : Byte) (s : State) : State := s.setDisk (s.disk.setAt d { s.disk.at d with inserted := false })

/-- Shutdown (R873): an eject of every drive. -/
def shutdown (s : State) : State := (List.range 256).foldl (fun s d => eject (BitVec.ofNat 8 d) s) s

/-- What a host event does. Between batches no time passes. -/
def applyEvent (e : HostEvent) (s : State) : Answer :=
  match e with
  | .step more => batchSlot more s
  | .pass => if s.batch.isSome then advance s else .next s
  | .raise irq => .next (s.setPic (s.pic.raise irq))
  | .addTicks k => .next (s.setPic { s.pic with makeupTicks := s.pic.makeupTicks + k })
  | .stop => .next (s.setHostRunning false)
  | .hardReset => .next (s.setHardReset true)
  | .loadRom base bytes => .next (loadRom base bytes s)
  | .insertImage d size contents => .next (insertImage d size contents s)
  | .insertRaw d size cyls sects heads contents => .next (insertRaw d size cyls sects heads contents s)
  | .eject d => .next (eject d s)
  | .setBootDrive d => .next (s.setBootDrive d)
  | .shutdown => .next (shutdown s)

/-- When R870 lets a host event happen while the run goes on: any time, or between batches only (R851). -/
def isDue (e : HostEvent) (s : State) : Bool :=
  match e with
  | .pass | .raise _ | .addTicks _ | .stop | .hardReset => true
  | .step _ | .loadRom _ _ | .insertImage _ _ _ | .insertRaw _ _ _ _ _ _ | .eject _ | .setBootDrive _ => s.batch.isNone
  | .shutdown => false

/-- A step while the run goes on: the oldest host event if it is due, which waits otherwise while the host's loop
goes on (log 7). -/
def hostStep (s : State) : Answer :=
  match s.events with
  | [] => advance s
  | e :: rest => if isDue e s then applyEvent e (s.setEvents rest) else advance s

/-- A step after the end of the run: the host ejects drives (R873); else what the end leaves. -/
def afterRun (s : State) (otherwise : Answer) : Answer :=
  match s.events with
  | .eject d :: rest => .next (eject d (s.setEvents rest))
  | .shutdown :: rest => .next (shutdown (s.setEvents rest))
  | _ => otherwise

/-! ## Placing a program's bytes (log 12) -/

/-- A byte put where a fetch from the address reads it: RAM, whatever its read-only bit, or the plane that
read mode 0 reads. -/
def placeByte (a : Linear) (v : Byte) (s : State) : State :=
  if inAperture a then
    let set (p : Table Byte) := planeSet p (apertureOffset a) v
    let p := s.video.planes
    s.setVideo { s.video with
      planes :=
        match s.video.readMap.toNat with
        | 0 => { p with p0 := set p.p0 }
        | 1 => { p with p1 := set p.p1 }
        | 2 => { p with p2 := set p.p2 }
        | _ => { p with p3 := set p.p3 } }
  else s.setRam (ramSet s.ram a v)

/-- Bytes put at CS:IP + k, CS:IP + k + 1, ... -/
def placeBytes : List Byte → Nat → State → State
  | [], _, s => s
  | b :: rest, k, s => placeBytes rest (k + 1) (placeByte (fetchAddr s k) b s)

/-- Read mode 0 selected, if the fetch address is in the aperture. -/
def forFetch (s : State) : State :=
  if inAperture (fetchAddr s 0) || inAperture (fetchAddr s (maxUnitBytes - 1)) then
    s.setVideo { s.video with gc := s.video.gc.set 0#8 5 (s.video.gcReg 5 &&& 0xF7#8) }
  else s

/-- The bytes of an instruction placed at CS:IP of a machine about to run a slot, the 80186 opcodes present
where the instruction is one of them. -/
def placeInstr (bytes : List Byte) (s : State) : State :=
  let s := (((forFetch s).setEvents []).setBatch none).setRun .running
  let s := { s with params := { s.params with ext186 := s.params.ext186 || bytes.head?.any isExt186Op } }
  placeBytes bytes 0 s

end Sys2Proof.Machine
end

