-- ==== Sys2Proof/Machine/Step.lean ====
section
/-! DEFINITION. One step of the machine (spec/70_reset_and_hazards.md R871), and placing an instruction. -/

namespace Sys2Proof.Machine

/-- One step: a host event that is due, else a slot or the boundary of the batch under way (log 7). After the end of
the run the host's ejects alone are due (R873): a fatal state is else a fault (R770, log 8), and a stopped one stays
(R862, log 9). -/
def step (s : State) : Host.Outcome State Fault Refusal :=
  match s.run with
  | .fatal r => afterRun s (.fault (.fatalStop r))
  | .stopped => afterRun s (.next s)
  | .running | .halted => hostStep s

/-- The instruction of a table word placed where `step` fetches its next instruction (log 12). -/
def State.withFetchWord (s : State) (nbits w : Nat) : State :=
  placeInstr ((tableUnit nbits w).take maxUnitBytes) s

end Sys2Proof.Machine
end

