-- ==== Sys2Proof/Laws/State.lean ====
section
/-! SUPPORT. Reading a field of an updated state: one lemma for each field and each update. -/

namespace Sys2Proof.Machine

variable (s : State)

/-! `setRegs` -/

section
variable (v : Regs)
@[simp] theorem State.setRegs_regs : (s.setRegs v).regs = v := rfl
@[simp] theorem State.setRegs_sregs : (s.setRegs v).sregs = s.sregs := rfl
@[simp] theorem State.setRegs_ip : (s.setRegs v).ip = s.ip := rfl
@[simp] theorem State.setRegs_flags : (s.setRegs v).flags = s.flags := rfl
@[simp] theorem State.setRegs_segOverride : (s.setRegs v).segOverride = s.segOverride := rfl
@[simp] theorem State.setRegs_rep : (s.setRegs v).rep = s.rep := rfl
@[simp] theorem State.setRegs_instrIP : (s.setRegs v).instrIP = s.instrIP := rfl
@[simp] theorem State.setRegs_run : (s.setRegs v).run = s.run := rfl
@[simp] theorem State.setRegs_ram : (s.setRegs v).ram = s.ram := rfl
@[simp] theorem State.setRegs_readonly : (s.setRegs v).readonly = s.readonly := rfl
@[simp] theorem State.setRegs_shadow : (s.setRegs v).shadow = s.shadow := rfl
@[simp] theorem State.setRegs_pic : (s.setRegs v).pic = s.pic := rfl
@[simp] theorem State.setRegs_disk : (s.setRegs v).disk = s.disk := rfl
@[simp] theorem State.setRegs_video : (s.setRegs v).video = s.video := rfl
@[simp] theorem State.setRegs_hostRunning : (s.setRegs v).hostRunning = s.hostRunning := rfl
@[simp] theorem State.setRegs_hardReset : (s.setRegs v).hardReset = s.hardReset := rfl
@[simp] theorem State.setRegs_bootDrive : (s.setRegs v).bootDrive = s.bootDrive := rfl
@[simp] theorem State.setRegs_batch : (s.setRegs v).batch = s.batch := rfl
@[simp] theorem State.setRegs_events : (s.setRegs v).events = s.events := rfl
@[simp] theorem State.setRegs_params : (s.setRegs v).params = s.params := rfl
@[simp] theorem State.setRegs_draws : (s.setRegs v).draws = s.draws := rfl
@[simp] theorem State.setRegs_setRegs (w : Regs) : (s.setRegs v).setRegs w = s.setRegs w := rfl
@[simp] theorem State.setRegs_self : s.setRegs s.regs = s := rfl
end

/-! `setSregs` -/

section
variable (v : Sregs)
@[simp] theorem State.setSregs_regs : (s.setSregs v).regs = s.regs := rfl
@[simp] theorem State.setSregs_sregs : (s.setSregs v).sregs = v := rfl
@[simp] theorem State.setSregs_ip : (s.setSregs v).ip = s.ip := rfl
@[simp] theorem State.setSregs_flags : (s.setSregs v).flags = s.flags := rfl
@[simp] theorem State.setSregs_segOverride : (s.setSregs v).segOverride = s.segOverride := rfl
@[simp] theorem State.setSregs_rep : (s.setSregs v).rep = s.rep := rfl
@[simp] theorem State.setSregs_instrIP : (s.setSregs v).instrIP = s.instrIP := rfl
@[simp] theorem State.setSregs_run : (s.setSregs v).run = s.run := rfl
@[simp] theorem State.setSregs_ram : (s.setSregs v).ram = s.ram := rfl
@[simp] theorem State.setSregs_readonly : (s.setSregs v).readonly = s.readonly := rfl
@[simp] theorem State.setSregs_shadow : (s.setSregs v).shadow = s.shadow := rfl
@[simp] theorem State.setSregs_pic : (s.setSregs v).pic = s.pic := rfl
@[simp] theorem State.setSregs_disk : (s.setSregs v).disk = s.disk := rfl
@[simp] theorem State.setSregs_video : (s.setSregs v).video = s.video := rfl
@[simp] theorem State.setSregs_hostRunning : (s.setSregs v).hostRunning = s.hostRunning := rfl
@[simp] theorem State.setSregs_hardReset : (s.setSregs v).hardReset = s.hardReset := rfl
@[simp] theorem State.setSregs_bootDrive : (s.setSregs v).bootDrive = s.bootDrive := rfl
@[simp] theorem State.setSregs_batch : (s.setSregs v).batch = s.batch := rfl
@[simp] theorem State.setSregs_events : (s.setSregs v).events = s.events := rfl
@[simp] theorem State.setSregs_params : (s.setSregs v).params = s.params := rfl
@[simp] theorem State.setSregs_draws : (s.setSregs v).draws = s.draws := rfl
@[simp] theorem State.setSregs_setSregs (w : Sregs) : (s.setSregs v).setSregs w = s.setSregs w := rfl
@[simp] theorem State.setSregs_self : s.setSregs s.sregs = s := rfl
end

/-! `setIp` -/

section
variable (v : Word)
@[simp] theorem State.setIp_regs : (s.setIp v).regs = s.regs := rfl
@[simp] theorem State.setIp_sregs : (s.setIp v).sregs = s.sregs := rfl
@[simp] theorem State.setIp_ip : (s.setIp v).ip = v := rfl
@[simp] theorem State.setIp_flags : (s.setIp v).flags = s.flags := rfl
@[simp] theorem State.setIp_segOverride : (s.setIp v).segOverride = s.segOverride := rfl
@[simp] theorem State.setIp_rep : (s.setIp v).rep = s.rep := rfl
@[simp] theorem State.setIp_instrIP : (s.setIp v).instrIP = s.instrIP := rfl
@[simp] theorem State.setIp_run : (s.setIp v).run = s.run := rfl
@[simp] theorem State.setIp_ram : (s.setIp v).ram = s.ram := rfl
@[simp] theorem State.setIp_readonly : (s.setIp v).readonly = s.readonly := rfl
@[simp] theorem State.setIp_shadow : (s.setIp v).shadow = s.shadow := rfl
@[simp] theorem State.setIp_pic : (s.setIp v).pic = s.pic := rfl
@[simp] theorem State.setIp_disk : (s.setIp v).disk = s.disk := rfl
@[simp] theorem State.setIp_video : (s.setIp v).video = s.video := rfl
@[simp] theorem State.setIp_hostRunning : (s.setIp v).hostRunning = s.hostRunning := rfl
@[simp] theorem State.setIp_hardReset : (s.setIp v).hardReset = s.hardReset := rfl
@[simp] theorem State.setIp_bootDrive : (s.setIp v).bootDrive = s.bootDrive := rfl
@[simp] theorem State.setIp_batch : (s.setIp v).batch = s.batch := rfl
@[simp] theorem State.setIp_events : (s.setIp v).events = s.events := rfl
@[simp] theorem State.setIp_params : (s.setIp v).params = s.params := rfl
@[simp] theorem State.setIp_draws : (s.setIp v).draws = s.draws := rfl
@[simp] theorem State.setIp_setIp (w : Word) : (s.setIp v).setIp w = s.setIp w := rfl
@[simp] theorem State.setIp_self : s.setIp s.ip = s := rfl
end

/-! `setFlags` -/

section
variable (v : Flags)
@[simp] theorem State.setFlags_regs : (s.setFlags v).regs = s.regs := rfl
@[simp] theorem State.setFlags_sregs : (s.setFlags v).sregs = s.sregs := rfl
@[simp] theorem State.setFlags_ip : (s.setFlags v).ip = s.ip := rfl
@[simp] theorem State.setFlags_flags : (s.setFlags v).flags = v := rfl
@[simp] theorem State.setFlags_segOverride : (s.setFlags v).segOverride = s.segOverride := rfl
@[simp] theorem State.setFlags_rep : (s.setFlags v).rep = s.rep := rfl
@[simp] theorem State.setFlags_instrIP : (s.setFlags v).instrIP = s.instrIP := rfl
@[simp] theorem State.setFlags_run : (s.setFlags v).run = s.run := rfl
@[simp] theorem State.setFlags_ram : (s.setFlags v).ram = s.ram := rfl
@[simp] theorem State.setFlags_readonly : (s.setFlags v).readonly = s.readonly := rfl
@[simp] theorem State.setFlags_shadow : (s.setFlags v).shadow = s.shadow := rfl
@[simp] theorem State.setFlags_pic : (s.setFlags v).pic = s.pic := rfl
@[simp] theorem State.setFlags_disk : (s.setFlags v).disk = s.disk := rfl
@[simp] theorem State.setFlags_video : (s.setFlags v).video = s.video := rfl
@[simp] theorem State.setFlags_hostRunning : (s.setFlags v).hostRunning = s.hostRunning := rfl
@[simp] theorem State.setFlags_hardReset : (s.setFlags v).hardReset = s.hardReset := rfl
@[simp] theorem State.setFlags_bootDrive : (s.setFlags v).bootDrive = s.bootDrive := rfl
@[simp] theorem State.setFlags_batch : (s.setFlags v).batch = s.batch := rfl
@[simp] theorem State.setFlags_events : (s.setFlags v).events = s.events := rfl
@[simp] theorem State.setFlags_params : (s.setFlags v).params = s.params := rfl
@[simp] theorem State.setFlags_draws : (s.setFlags v).draws = s.draws := rfl
@[simp] theorem State.setFlags_setFlags (w : Flags) : (s.setFlags v).setFlags w = s.setFlags w := rfl
@[simp] theorem State.setFlags_self : s.setFlags s.flags = s := rfl
end

/-! `setSegOverride` -/

section
variable (v : Option Sreg)
@[simp] theorem State.setSegOverride_regs : (s.setSegOverride v).regs = s.regs := rfl
@[simp] theorem State.setSegOverride_sregs : (s.setSegOverride v).sregs = s.sregs := rfl
@[simp] theorem State.setSegOverride_ip : (s.setSegOverride v).ip = s.ip := rfl
@[simp] theorem State.setSegOverride_flags : (s.setSegOverride v).flags = s.flags := rfl
@[simp] theorem State.setSegOverride_segOverride : (s.setSegOverride v).segOverride = v := rfl
@[simp] theorem State.setSegOverride_rep : (s.setSegOverride v).rep = s.rep := rfl
@[simp] theorem State.setSegOverride_instrIP : (s.setSegOverride v).instrIP = s.instrIP := rfl
@[simp] theorem State.setSegOverride_run : (s.setSegOverride v).run = s.run := rfl
@[simp] theorem State.setSegOverride_ram : (s.setSegOverride v).ram = s.ram := rfl
@[simp] theorem State.setSegOverride_readonly : (s.setSegOverride v).readonly = s.readonly := rfl
@[simp] theorem State.setSegOverride_shadow : (s.setSegOverride v).shadow = s.shadow := rfl
@[simp] theorem State.setSegOverride_pic : (s.setSegOverride v).pic = s.pic := rfl
@[simp] theorem State.setSegOverride_disk : (s.setSegOverride v).disk = s.disk := rfl
@[simp] theorem State.setSegOverride_video : (s.setSegOverride v).video = s.video := rfl
@[simp] theorem State.setSegOverride_hostRunning : (s.setSegOverride v).hostRunning = s.hostRunning := rfl
@[simp] theorem State.setSegOverride_hardReset : (s.setSegOverride v).hardReset = s.hardReset := rfl
@[simp] theorem State.setSegOverride_bootDrive : (s.setSegOverride v).bootDrive = s.bootDrive := rfl
@[simp] theorem State.setSegOverride_batch : (s.setSegOverride v).batch = s.batch := rfl
@[simp] theorem State.setSegOverride_events : (s.setSegOverride v).events = s.events := rfl
@[simp] theorem State.setSegOverride_params : (s.setSegOverride v).params = s.params := rfl
@[simp] theorem State.setSegOverride_draws : (s.setSegOverride v).draws = s.draws := rfl
@[simp] theorem State.setSegOverride_setSegOverride (w : Option Sreg) : (s.setSegOverride v).setSegOverride w = s.setSegOverride w := rfl
@[simp] theorem State.setSegOverride_self : s.setSegOverride s.segOverride = s := rfl
end

/-! `setRep` -/

section
variable (v : Option RepPrefix)
@[simp] theorem State.setRep_regs : (s.setRep v).regs = s.regs := rfl
@[simp] theorem State.setRep_sregs : (s.setRep v).sregs = s.sregs := rfl
@[simp] theorem State.setRep_ip : (s.setRep v).ip = s.ip := rfl
@[simp] theorem State.setRep_flags : (s.setRep v).flags = s.flags := rfl
@[simp] theorem State.setRep_segOverride : (s.setRep v).segOverride = s.segOverride := rfl
@[simp] theorem State.setRep_rep : (s.setRep v).rep = v := rfl
@[simp] theorem State.setRep_instrIP : (s.setRep v).instrIP = s.instrIP := rfl
@[simp] theorem State.setRep_run : (s.setRep v).run = s.run := rfl
@[simp] theorem State.setRep_ram : (s.setRep v).ram = s.ram := rfl
@[simp] theorem State.setRep_readonly : (s.setRep v).readonly = s.readonly := rfl
@[simp] theorem State.setRep_shadow : (s.setRep v).shadow = s.shadow := rfl
@[simp] theorem State.setRep_pic : (s.setRep v).pic = s.pic := rfl
@[simp] theorem State.setRep_disk : (s.setRep v).disk = s.disk := rfl
@[simp] theorem State.setRep_video : (s.setRep v).video = s.video := rfl
@[simp] theorem State.setRep_hostRunning : (s.setRep v).hostRunning = s.hostRunning := rfl
@[simp] theorem State.setRep_hardReset : (s.setRep v).hardReset = s.hardReset := rfl
@[simp] theorem State.setRep_bootDrive : (s.setRep v).bootDrive = s.bootDrive := rfl
@[simp] theorem State.setRep_batch : (s.setRep v).batch = s.batch := rfl
@[simp] theorem State.setRep_events : (s.setRep v).events = s.events := rfl
@[simp] theorem State.setRep_params : (s.setRep v).params = s.params := rfl
@[simp] theorem State.setRep_draws : (s.setRep v).draws = s.draws := rfl
@[simp] theorem State.setRep_setRep (w : Option RepPrefix) : (s.setRep v).setRep w = s.setRep w := rfl
@[simp] theorem State.setRep_self : s.setRep s.rep = s := rfl
end

/-! `setInstrIP` -/

section
variable (v : Word)
@[simp] theorem State.setInstrIP_regs : (s.setInstrIP v).regs = s.regs := rfl
@[simp] theorem State.setInstrIP_sregs : (s.setInstrIP v).sregs = s.sregs := rfl
@[simp] theorem State.setInstrIP_ip : (s.setInstrIP v).ip = s.ip := rfl
@[simp] theorem State.setInstrIP_flags : (s.setInstrIP v).flags = s.flags := rfl
@[simp] theorem State.setInstrIP_segOverride : (s.setInstrIP v).segOverride = s.segOverride := rfl
@[simp] theorem State.setInstrIP_rep : (s.setInstrIP v).rep = s.rep := rfl
@[simp] theorem State.setInstrIP_instrIP : (s.setInstrIP v).instrIP = v := rfl
@[simp] theorem State.setInstrIP_run : (s.setInstrIP v).run = s.run := rfl
@[simp] theorem State.setInstrIP_ram : (s.setInstrIP v).ram = s.ram := rfl
@[simp] theorem State.setInstrIP_readonly : (s.setInstrIP v).readonly = s.readonly := rfl
@[simp] theorem State.setInstrIP_shadow : (s.setInstrIP v).shadow = s.shadow := rfl
@[simp] theorem State.setInstrIP_pic : (s.setInstrIP v).pic = s.pic := rfl
@[simp] theorem State.setInstrIP_disk : (s.setInstrIP v).disk = s.disk := rfl
@[simp] theorem State.setInstrIP_video : (s.setInstrIP v).video = s.video := rfl
@[simp] theorem State.setInstrIP_hostRunning : (s.setInstrIP v).hostRunning = s.hostRunning := rfl
@[simp] theorem State.setInstrIP_hardReset : (s.setInstrIP v).hardReset = s.hardReset := rfl
@[simp] theorem State.setInstrIP_bootDrive : (s.setInstrIP v).bootDrive = s.bootDrive := rfl
@[simp] theorem State.setInstrIP_batch : (s.setInstrIP v).batch = s.batch := rfl
@[simp] theorem State.setInstrIP_events : (s.setInstrIP v).events = s.events := rfl
@[simp] theorem State.setInstrIP_params : (s.setInstrIP v).params = s.params := rfl
@[simp] theorem State.setInstrIP_draws : (s.setInstrIP v).draws = s.draws := rfl
@[simp] theorem State.setInstrIP_setInstrIP (w : Word) : (s.setInstrIP v).setInstrIP w = s.setInstrIP w := rfl
@[simp] theorem State.setInstrIP_self : s.setInstrIP s.instrIP = s := rfl
end

/-! `setRun` -/

section
variable (v : Run)
@[simp] theorem State.setRun_regs : (s.setRun v).regs = s.regs := rfl
@[simp] theorem State.setRun_sregs : (s.setRun v).sregs = s.sregs := rfl
@[simp] theorem State.setRun_ip : (s.setRun v).ip = s.ip := rfl
@[simp] theorem State.setRun_flags : (s.setRun v).flags = s.flags := rfl
@[simp] theorem State.setRun_segOverride : (s.setRun v).segOverride = s.segOverride := rfl
@[simp] theorem State.setRun_rep : (s.setRun v).rep = s.rep := rfl
@[simp] theorem State.setRun_instrIP : (s.setRun v).instrIP = s.instrIP := rfl
@[simp] theorem State.setRun_run : (s.setRun v).run = v := rfl
@[simp] theorem State.setRun_ram : (s.setRun v).ram = s.ram := rfl
@[simp] theorem State.setRun_readonly : (s.setRun v).readonly = s.readonly := rfl
@[simp] theorem State.setRun_shadow : (s.setRun v).shadow = s.shadow := rfl
@[simp] theorem State.setRun_pic : (s.setRun v).pic = s.pic := rfl
@[simp] theorem State.setRun_disk : (s.setRun v).disk = s.disk := rfl
@[simp] theorem State.setRun_video : (s.setRun v).video = s.video := rfl
@[simp] theorem State.setRun_hostRunning : (s.setRun v).hostRunning = s.hostRunning := rfl
@[simp] theorem State.setRun_hardReset : (s.setRun v).hardReset = s.hardReset := rfl
@[simp] theorem State.setRun_bootDrive : (s.setRun v).bootDrive = s.bootDrive := rfl
@[simp] theorem State.setRun_batch : (s.setRun v).batch = s.batch := rfl
@[simp] theorem State.setRun_events : (s.setRun v).events = s.events := rfl
@[simp] theorem State.setRun_params : (s.setRun v).params = s.params := rfl
@[simp] theorem State.setRun_draws : (s.setRun v).draws = s.draws := rfl
@[simp] theorem State.setRun_setRun (w : Run) : (s.setRun v).setRun w = s.setRun w := rfl
@[simp] theorem State.setRun_self : s.setRun s.run = s := rfl
end

/-! `setRam` -/

section
variable (v : Table Byte)
@[simp] theorem State.setRam_regs : (s.setRam v).regs = s.regs := rfl
@[simp] theorem State.setRam_sregs : (s.setRam v).sregs = s.sregs := rfl
@[simp] theorem State.setRam_ip : (s.setRam v).ip = s.ip := rfl
@[simp] theorem State.setRam_flags : (s.setRam v).flags = s.flags := rfl
@[simp] theorem State.setRam_segOverride : (s.setRam v).segOverride = s.segOverride := rfl
@[simp] theorem State.setRam_rep : (s.setRam v).rep = s.rep := rfl
@[simp] theorem State.setRam_instrIP : (s.setRam v).instrIP = s.instrIP := rfl
@[simp] theorem State.setRam_run : (s.setRam v).run = s.run := rfl
@[simp] theorem State.setRam_ram : (s.setRam v).ram = v := rfl
@[simp] theorem State.setRam_readonly : (s.setRam v).readonly = s.readonly := rfl
@[simp] theorem State.setRam_shadow : (s.setRam v).shadow = s.shadow := rfl
@[simp] theorem State.setRam_pic : (s.setRam v).pic = s.pic := rfl
@[simp] theorem State.setRam_disk : (s.setRam v).disk = s.disk := rfl
@[simp] theorem State.setRam_video : (s.setRam v).video = s.video := rfl
@[simp] theorem State.setRam_hostRunning : (s.setRam v).hostRunning = s.hostRunning := rfl
@[simp] theorem State.setRam_hardReset : (s.setRam v).hardReset = s.hardReset := rfl
@[simp] theorem State.setRam_bootDrive : (s.setRam v).bootDrive = s.bootDrive := rfl
@[simp] theorem State.setRam_batch : (s.setRam v).batch = s.batch := rfl
@[simp] theorem State.setRam_events : (s.setRam v).events = s.events := rfl
@[simp] theorem State.setRam_params : (s.setRam v).params = s.params := rfl
@[simp] theorem State.setRam_draws : (s.setRam v).draws = s.draws := rfl
@[simp] theorem State.setRam_setRam (w : Table Byte) : (s.setRam v).setRam w = s.setRam w := rfl
@[simp] theorem State.setRam_self : s.setRam s.ram = s := rfl
end

/-! `setReadonly` -/

section
variable (v : List Nat)
@[simp] theorem State.setReadonly_regs : (s.setReadonly v).regs = s.regs := rfl
@[simp] theorem State.setReadonly_sregs : (s.setReadonly v).sregs = s.sregs := rfl
@[simp] theorem State.setReadonly_ip : (s.setReadonly v).ip = s.ip := rfl
@[simp] theorem State.setReadonly_flags : (s.setReadonly v).flags = s.flags := rfl
@[simp] theorem State.setReadonly_segOverride : (s.setReadonly v).segOverride = s.segOverride := rfl
@[simp] theorem State.setReadonly_rep : (s.setReadonly v).rep = s.rep := rfl
@[simp] theorem State.setReadonly_instrIP : (s.setReadonly v).instrIP = s.instrIP := rfl
@[simp] theorem State.setReadonly_run : (s.setReadonly v).run = s.run := rfl
@[simp] theorem State.setReadonly_ram : (s.setReadonly v).ram = s.ram := rfl
@[simp] theorem State.setReadonly_readonly : (s.setReadonly v).readonly = v := rfl
@[simp] theorem State.setReadonly_shadow : (s.setReadonly v).shadow = s.shadow := rfl
@[simp] theorem State.setReadonly_pic : (s.setReadonly v).pic = s.pic := rfl
@[simp] theorem State.setReadonly_disk : (s.setReadonly v).disk = s.disk := rfl
@[simp] theorem State.setReadonly_video : (s.setReadonly v).video = s.video := rfl
@[simp] theorem State.setReadonly_hostRunning : (s.setReadonly v).hostRunning = s.hostRunning := rfl
@[simp] theorem State.setReadonly_hardReset : (s.setReadonly v).hardReset = s.hardReset := rfl
@[simp] theorem State.setReadonly_bootDrive : (s.setReadonly v).bootDrive = s.bootDrive := rfl
@[simp] theorem State.setReadonly_batch : (s.setReadonly v).batch = s.batch := rfl
@[simp] theorem State.setReadonly_events : (s.setReadonly v).events = s.events := rfl
@[simp] theorem State.setReadonly_params : (s.setReadonly v).params = s.params := rfl
@[simp] theorem State.setReadonly_draws : (s.setReadonly v).draws = s.draws := rfl
@[simp] theorem State.setReadonly_setReadonly (w : List Nat) : (s.setReadonly v).setReadonly w = s.setReadonly w := rfl
@[simp] theorem State.setReadonly_self : s.setReadonly s.readonly = s := rfl
end

/-! `setShadow` -/

section
variable (v : Table Byte)
@[simp] theorem State.setShadow_regs : (s.setShadow v).regs = s.regs := rfl
@[simp] theorem State.setShadow_sregs : (s.setShadow v).sregs = s.sregs := rfl
@[simp] theorem State.setShadow_ip : (s.setShadow v).ip = s.ip := rfl
@[simp] theorem State.setShadow_flags : (s.setShadow v).flags = s.flags := rfl
@[simp] theorem State.setShadow_segOverride : (s.setShadow v).segOverride = s.segOverride := rfl
@[simp] theorem State.setShadow_rep : (s.setShadow v).rep = s.rep := rfl
@[simp] theorem State.setShadow_instrIP : (s.setShadow v).instrIP = s.instrIP := rfl
@[simp] theorem State.setShadow_run : (s.setShadow v).run = s.run := rfl
@[simp] theorem State.setShadow_ram : (s.setShadow v).ram = s.ram := rfl
@[simp] theorem State.setShadow_readonly : (s.setShadow v).readonly = s.readonly := rfl
@[simp] theorem State.setShadow_shadow : (s.setShadow v).shadow = v := rfl
@[simp] theorem State.setShadow_pic : (s.setShadow v).pic = s.pic := rfl
@[simp] theorem State.setShadow_disk : (s.setShadow v).disk = s.disk := rfl
@[simp] theorem State.setShadow_video : (s.setShadow v).video = s.video := rfl
@[simp] theorem State.setShadow_hostRunning : (s.setShadow v).hostRunning = s.hostRunning := rfl
@[simp] theorem State.setShadow_hardReset : (s.setShadow v).hardReset = s.hardReset := rfl
@[simp] theorem State.setShadow_bootDrive : (s.setShadow v).bootDrive = s.bootDrive := rfl
@[simp] theorem State.setShadow_batch : (s.setShadow v).batch = s.batch := rfl
@[simp] theorem State.setShadow_events : (s.setShadow v).events = s.events := rfl
@[simp] theorem State.setShadow_params : (s.setShadow v).params = s.params := rfl
@[simp] theorem State.setShadow_draws : (s.setShadow v).draws = s.draws := rfl
@[simp] theorem State.setShadow_setShadow (w : Table Byte) : (s.setShadow v).setShadow w = s.setShadow w := rfl
@[simp] theorem State.setShadow_self : s.setShadow s.shadow = s := rfl
end

/-! `setPic` -/

section
variable (v : Pic)
@[simp] theorem State.setPic_regs : (s.setPic v).regs = s.regs := rfl
@[simp] theorem State.setPic_sregs : (s.setPic v).sregs = s.sregs := rfl
@[simp] theorem State.setPic_ip : (s.setPic v).ip = s.ip := rfl
@[simp] theorem State.setPic_flags : (s.setPic v).flags = s.flags := rfl
@[simp] theorem State.setPic_segOverride : (s.setPic v).segOverride = s.segOverride := rfl
@[simp] theorem State.setPic_rep : (s.setPic v).rep = s.rep := rfl
@[simp] theorem State.setPic_instrIP : (s.setPic v).instrIP = s.instrIP := rfl
@[simp] theorem State.setPic_run : (s.setPic v).run = s.run := rfl
@[simp] theorem State.setPic_ram : (s.setPic v).ram = s.ram := rfl
@[simp] theorem State.setPic_readonly : (s.setPic v).readonly = s.readonly := rfl
@[simp] theorem State.setPic_shadow : (s.setPic v).shadow = s.shadow := rfl
@[simp] theorem State.setPic_pic : (s.setPic v).pic = v := rfl
@[simp] theorem State.setPic_disk : (s.setPic v).disk = s.disk := rfl
@[simp] theorem State.setPic_video : (s.setPic v).video = s.video := rfl
@[simp] theorem State.setPic_hostRunning : (s.setPic v).hostRunning = s.hostRunning := rfl
@[simp] theorem State.setPic_hardReset : (s.setPic v).hardReset = s.hardReset := rfl
@[simp] theorem State.setPic_bootDrive : (s.setPic v).bootDrive = s.bootDrive := rfl
@[simp] theorem State.setPic_batch : (s.setPic v).batch = s.batch := rfl
@[simp] theorem State.setPic_events : (s.setPic v).events = s.events := rfl
@[simp] theorem State.setPic_params : (s.setPic v).params = s.params := rfl
@[simp] theorem State.setPic_draws : (s.setPic v).draws = s.draws := rfl
@[simp] theorem State.setPic_setPic (w : Pic) : (s.setPic v).setPic w = s.setPic w := rfl
@[simp] theorem State.setPic_self : s.setPic s.pic = s := rfl
end

/-! `setDisk` -/

section
variable (v : Disk)
@[simp] theorem State.setDisk_regs : (s.setDisk v).regs = s.regs := rfl
@[simp] theorem State.setDisk_sregs : (s.setDisk v).sregs = s.sregs := rfl
@[simp] theorem State.setDisk_ip : (s.setDisk v).ip = s.ip := rfl
@[simp] theorem State.setDisk_flags : (s.setDisk v).flags = s.flags := rfl
@[simp] theorem State.setDisk_segOverride : (s.setDisk v).segOverride = s.segOverride := rfl
@[simp] theorem State.setDisk_rep : (s.setDisk v).rep = s.rep := rfl
@[simp] theorem State.setDisk_instrIP : (s.setDisk v).instrIP = s.instrIP := rfl
@[simp] theorem State.setDisk_run : (s.setDisk v).run = s.run := rfl
@[simp] theorem State.setDisk_ram : (s.setDisk v).ram = s.ram := rfl
@[simp] theorem State.setDisk_readonly : (s.setDisk v).readonly = s.readonly := rfl
@[simp] theorem State.setDisk_shadow : (s.setDisk v).shadow = s.shadow := rfl
@[simp] theorem State.setDisk_pic : (s.setDisk v).pic = s.pic := rfl
@[simp] theorem State.setDisk_disk : (s.setDisk v).disk = v := rfl
@[simp] theorem State.setDisk_video : (s.setDisk v).video = s.video := rfl
@[simp] theorem State.setDisk_hostRunning : (s.setDisk v).hostRunning = s.hostRunning := rfl
@[simp] theorem State.setDisk_hardReset : (s.setDisk v).hardReset = s.hardReset := rfl
@[simp] theorem State.setDisk_bootDrive : (s.setDisk v).bootDrive = s.bootDrive := rfl
@[simp] theorem State.setDisk_batch : (s.setDisk v).batch = s.batch := rfl
@[simp] theorem State.setDisk_events : (s.setDisk v).events = s.events := rfl
@[simp] theorem State.setDisk_params : (s.setDisk v).params = s.params := rfl
@[simp] theorem State.setDisk_draws : (s.setDisk v).draws = s.draws := rfl
@[simp] theorem State.setDisk_setDisk (w : Disk) : (s.setDisk v).setDisk w = s.setDisk w := rfl
@[simp] theorem State.setDisk_self : s.setDisk s.disk = s := rfl
end

/-! `setVideo` -/

section
variable (v : Video)
@[simp] theorem State.setVideo_regs : (s.setVideo v).regs = s.regs := rfl
@[simp] theorem State.setVideo_sregs : (s.setVideo v).sregs = s.sregs := rfl
@[simp] theorem State.setVideo_ip : (s.setVideo v).ip = s.ip := rfl
@[simp] theorem State.setVideo_flags : (s.setVideo v).flags = s.flags := rfl
@[simp] theorem State.setVideo_segOverride : (s.setVideo v).segOverride = s.segOverride := rfl
@[simp] theorem State.setVideo_rep : (s.setVideo v).rep = s.rep := rfl
@[simp] theorem State.setVideo_instrIP : (s.setVideo v).instrIP = s.instrIP := rfl
@[simp] theorem State.setVideo_run : (s.setVideo v).run = s.run := rfl
@[simp] theorem State.setVideo_ram : (s.setVideo v).ram = s.ram := rfl
@[simp] theorem State.setVideo_readonly : (s.setVideo v).readonly = s.readonly := rfl
@[simp] theorem State.setVideo_shadow : (s.setVideo v).shadow = s.shadow := rfl
@[simp] theorem State.setVideo_pic : (s.setVideo v).pic = s.pic := rfl
@[simp] theorem State.setVideo_disk : (s.setVideo v).disk = s.disk := rfl
@[simp] theorem State.setVideo_video : (s.setVideo v).video = v := rfl
@[simp] theorem State.setVideo_hostRunning : (s.setVideo v).hostRunning = s.hostRunning := rfl
@[simp] theorem State.setVideo_hardReset : (s.setVideo v).hardReset = s.hardReset := rfl
@[simp] theorem State.setVideo_bootDrive : (s.setVideo v).bootDrive = s.bootDrive := rfl
@[simp] theorem State.setVideo_batch : (s.setVideo v).batch = s.batch := rfl
@[simp] theorem State.setVideo_events : (s.setVideo v).events = s.events := rfl
@[simp] theorem State.setVideo_params : (s.setVideo v).params = s.params := rfl
@[simp] theorem State.setVideo_draws : (s.setVideo v).draws = s.draws := rfl
@[simp] theorem State.setVideo_setVideo (w : Video) : (s.setVideo v).setVideo w = s.setVideo w := rfl
@[simp] theorem State.setVideo_self : s.setVideo s.video = s := rfl
end

/-! `setHostRunning` -/

section
variable (v : Bool)
@[simp] theorem State.setHostRunning_regs : (s.setHostRunning v).regs = s.regs := rfl
@[simp] theorem State.setHostRunning_sregs : (s.setHostRunning v).sregs = s.sregs := rfl
@[simp] theorem State.setHostRunning_ip : (s.setHostRunning v).ip = s.ip := rfl
@[simp] theorem State.setHostRunning_flags : (s.setHostRunning v).flags = s.flags := rfl
@[simp] theorem State.setHostRunning_segOverride : (s.setHostRunning v).segOverride = s.segOverride := rfl
@[simp] theorem State.setHostRunning_rep : (s.setHostRunning v).rep = s.rep := rfl
@[simp] theorem State.setHostRunning_instrIP : (s.setHostRunning v).instrIP = s.instrIP := rfl
@[simp] theorem State.setHostRunning_run : (s.setHostRunning v).run = s.run := rfl
@[simp] theorem State.setHostRunning_ram : (s.setHostRunning v).ram = s.ram := rfl
@[simp] theorem State.setHostRunning_readonly : (s.setHostRunning v).readonly = s.readonly := rfl
@[simp] theorem State.setHostRunning_shadow : (s.setHostRunning v).shadow = s.shadow := rfl
@[simp] theorem State.setHostRunning_pic : (s.setHostRunning v).pic = s.pic := rfl
@[simp] theorem State.setHostRunning_disk : (s.setHostRunning v).disk = s.disk := rfl
@[simp] theorem State.setHostRunning_video : (s.setHostRunning v).video = s.video := rfl
@[simp] theorem State.setHostRunning_hostRunning : (s.setHostRunning v).hostRunning = v := rfl
@[simp] theorem State.setHostRunning_hardReset : (s.setHostRunning v).hardReset = s.hardReset := rfl
@[simp] theorem State.setHostRunning_bootDrive : (s.setHostRunning v).bootDrive = s.bootDrive := rfl
@[simp] theorem State.setHostRunning_batch : (s.setHostRunning v).batch = s.batch := rfl
@[simp] theorem State.setHostRunning_events : (s.setHostRunning v).events = s.events := rfl
@[simp] theorem State.setHostRunning_params : (s.setHostRunning v).params = s.params := rfl
@[simp] theorem State.setHostRunning_draws : (s.setHostRunning v).draws = s.draws := rfl
@[simp] theorem State.setHostRunning_setHostRunning (w : Bool) : (s.setHostRunning v).setHostRunning w = s.setHostRunning w := rfl
@[simp] theorem State.setHostRunning_self : s.setHostRunning s.hostRunning = s := rfl
end

/-! `setHardReset` -/

section
variable (v : Bool)
@[simp] theorem State.setHardReset_regs : (s.setHardReset v).regs = s.regs := rfl
@[simp] theorem State.setHardReset_sregs : (s.setHardReset v).sregs = s.sregs := rfl
@[simp] theorem State.setHardReset_ip : (s.setHardReset v).ip = s.ip := rfl
@[simp] theorem State.setHardReset_flags : (s.setHardReset v).flags = s.flags := rfl
@[simp] theorem State.setHardReset_segOverride : (s.setHardReset v).segOverride = s.segOverride := rfl
@[simp] theorem State.setHardReset_rep : (s.setHardReset v).rep = s.rep := rfl
@[simp] theorem State.setHardReset_instrIP : (s.setHardReset v).instrIP = s.instrIP := rfl
@[simp] theorem State.setHardReset_run : (s.setHardReset v).run = s.run := rfl
@[simp] theorem State.setHardReset_ram : (s.setHardReset v).ram = s.ram := rfl
@[simp] theorem State.setHardReset_readonly : (s.setHardReset v).readonly = s.readonly := rfl
@[simp] theorem State.setHardReset_shadow : (s.setHardReset v).shadow = s.shadow := rfl
@[simp] theorem State.setHardReset_pic : (s.setHardReset v).pic = s.pic := rfl
@[simp] theorem State.setHardReset_disk : (s.setHardReset v).disk = s.disk := rfl
@[simp] theorem State.setHardReset_video : (s.setHardReset v).video = s.video := rfl
@[simp] theorem State.setHardReset_hostRunning : (s.setHardReset v).hostRunning = s.hostRunning := rfl
@[simp] theorem State.setHardReset_hardReset : (s.setHardReset v).hardReset = v := rfl
@[simp] theorem State.setHardReset_bootDrive : (s.setHardReset v).bootDrive = s.bootDrive := rfl
@[simp] theorem State.setHardReset_batch : (s.setHardReset v).batch = s.batch := rfl
@[simp] theorem State.setHardReset_events : (s.setHardReset v).events = s.events := rfl
@[simp] theorem State.setHardReset_params : (s.setHardReset v).params = s.params := rfl
@[simp] theorem State.setHardReset_draws : (s.setHardReset v).draws = s.draws := rfl
@[simp] theorem State.setHardReset_setHardReset (w : Bool) : (s.setHardReset v).setHardReset w = s.setHardReset w := rfl
@[simp] theorem State.setHardReset_self : s.setHardReset s.hardReset = s := rfl
end

/-! `setBootDrive` -/

section
variable (v : Byte)
@[simp] theorem State.setBootDrive_regs : (s.setBootDrive v).regs = s.regs := rfl
@[simp] theorem State.setBootDrive_sregs : (s.setBootDrive v).sregs = s.sregs := rfl
@[simp] theorem State.setBootDrive_ip : (s.setBootDrive v).ip = s.ip := rfl
@[simp] theorem State.setBootDrive_flags : (s.setBootDrive v).flags = s.flags := rfl
@[simp] theorem State.setBootDrive_segOverride : (s.setBootDrive v).segOverride = s.segOverride := rfl
@[simp] theorem State.setBootDrive_rep : (s.setBootDrive v).rep = s.rep := rfl
@[simp] theorem State.setBootDrive_instrIP : (s.setBootDrive v).instrIP = s.instrIP := rfl
@[simp] theorem State.setBootDrive_run : (s.setBootDrive v).run = s.run := rfl
@[simp] theorem State.setBootDrive_ram : (s.setBootDrive v).ram = s.ram := rfl
@[simp] theorem State.setBootDrive_readonly : (s.setBootDrive v).readonly = s.readonly := rfl
@[simp] theorem State.setBootDrive_shadow : (s.setBootDrive v).shadow = s.shadow := rfl
@[simp] theorem State.setBootDrive_pic : (s.setBootDrive v).pic = s.pic := rfl
@[simp] theorem State.setBootDrive_disk : (s.setBootDrive v).disk = s.disk := rfl
@[simp] theorem State.setBootDrive_video : (s.setBootDrive v).video = s.video := rfl
@[simp] theorem State.setBootDrive_hostRunning : (s.setBootDrive v).hostRunning = s.hostRunning := rfl
@[simp] theorem State.setBootDrive_hardReset : (s.setBootDrive v).hardReset = s.hardReset := rfl
@[simp] theorem State.setBootDrive_bootDrive : (s.setBootDrive v).bootDrive = v := rfl
@[simp] theorem State.setBootDrive_batch : (s.setBootDrive v).batch = s.batch := rfl
@[simp] theorem State.setBootDrive_events : (s.setBootDrive v).events = s.events := rfl
@[simp] theorem State.setBootDrive_params : (s.setBootDrive v).params = s.params := rfl
@[simp] theorem State.setBootDrive_draws : (s.setBootDrive v).draws = s.draws := rfl
@[simp] theorem State.setBootDrive_setBootDrive (w : Byte) : (s.setBootDrive v).setBootDrive w = s.setBootDrive w := rfl
@[simp] theorem State.setBootDrive_self : s.setBootDrive s.bootDrive = s := rfl
end

/-! `setBatch` -/

section
variable (v : Option Nat)
@[simp] theorem State.setBatch_regs : (s.setBatch v).regs = s.regs := rfl
@[simp] theorem State.setBatch_sregs : (s.setBatch v).sregs = s.sregs := rfl
@[simp] theorem State.setBatch_ip : (s.setBatch v).ip = s.ip := rfl
@[simp] theorem State.setBatch_flags : (s.setBatch v).flags = s.flags := rfl
@[simp] theorem State.setBatch_segOverride : (s.setBatch v).segOverride = s.segOverride := rfl
@[simp] theorem State.setBatch_rep : (s.setBatch v).rep = s.rep := rfl
@[simp] theorem State.setBatch_instrIP : (s.setBatch v).instrIP = s.instrIP := rfl
@[simp] theorem State.setBatch_run : (s.setBatch v).run = s.run := rfl
@[simp] theorem State.setBatch_ram : (s.setBatch v).ram = s.ram := rfl
@[simp] theorem State.setBatch_readonly : (s.setBatch v).readonly = s.readonly := rfl
@[simp] theorem State.setBatch_shadow : (s.setBatch v).shadow = s.shadow := rfl
@[simp] theorem State.setBatch_pic : (s.setBatch v).pic = s.pic := rfl
@[simp] theorem State.setBatch_disk : (s.setBatch v).disk = s.disk := rfl
@[simp] theorem State.setBatch_video : (s.setBatch v).video = s.video := rfl
@[simp] theorem State.setBatch_hostRunning : (s.setBatch v).hostRunning = s.hostRunning := rfl
@[simp] theorem State.setBatch_hardReset : (s.setBatch v).hardReset = s.hardReset := rfl
@[simp] theorem State.setBatch_bootDrive : (s.setBatch v).bootDrive = s.bootDrive := rfl
@[simp] theorem State.setBatch_batch : (s.setBatch v).batch = v := rfl
@[simp] theorem State.setBatch_events : (s.setBatch v).events = s.events := rfl
@[simp] theorem State.setBatch_params : (s.setBatch v).params = s.params := rfl
@[simp] theorem State.setBatch_draws : (s.setBatch v).draws = s.draws := rfl
@[simp] theorem State.setBatch_setBatch (w : Option Nat) : (s.setBatch v).setBatch w = s.setBatch w := rfl
@[simp] theorem State.setBatch_self : s.setBatch s.batch = s := rfl
end

/-! `setEvents` -/

section
variable (v : List HostEvent)
@[simp] theorem State.setEvents_regs : (s.setEvents v).regs = s.regs := rfl
@[simp] theorem State.setEvents_sregs : (s.setEvents v).sregs = s.sregs := rfl
@[simp] theorem State.setEvents_ip : (s.setEvents v).ip = s.ip := rfl
@[simp] theorem State.setEvents_flags : (s.setEvents v).flags = s.flags := rfl
@[simp] theorem State.setEvents_segOverride : (s.setEvents v).segOverride = s.segOverride := rfl
@[simp] theorem State.setEvents_rep : (s.setEvents v).rep = s.rep := rfl
@[simp] theorem State.setEvents_instrIP : (s.setEvents v).instrIP = s.instrIP := rfl
@[simp] theorem State.setEvents_run : (s.setEvents v).run = s.run := rfl
@[simp] theorem State.setEvents_ram : (s.setEvents v).ram = s.ram := rfl
@[simp] theorem State.setEvents_readonly : (s.setEvents v).readonly = s.readonly := rfl
@[simp] theorem State.setEvents_shadow : (s.setEvents v).shadow = s.shadow := rfl
@[simp] theorem State.setEvents_pic : (s.setEvents v).pic = s.pic := rfl
@[simp] theorem State.setEvents_disk : (s.setEvents v).disk = s.disk := rfl
@[simp] theorem State.setEvents_video : (s.setEvents v).video = s.video := rfl
@[simp] theorem State.setEvents_hostRunning : (s.setEvents v).hostRunning = s.hostRunning := rfl
@[simp] theorem State.setEvents_hardReset : (s.setEvents v).hardReset = s.hardReset := rfl
@[simp] theorem State.setEvents_bootDrive : (s.setEvents v).bootDrive = s.bootDrive := rfl
@[simp] theorem State.setEvents_batch : (s.setEvents v).batch = s.batch := rfl
@[simp] theorem State.setEvents_events : (s.setEvents v).events = v := rfl
@[simp] theorem State.setEvents_params : (s.setEvents v).params = s.params := rfl
@[simp] theorem State.setEvents_draws : (s.setEvents v).draws = s.draws := rfl
@[simp] theorem State.setEvents_setEvents (w : List HostEvent) : (s.setEvents v).setEvents w = s.setEvents w := rfl
@[simp] theorem State.setEvents_self : s.setEvents s.events = s := rfl
end

/-! `setDraws` -/

section
variable (v : Nat)
@[simp] theorem State.setDraws_regs : (s.setDraws v).regs = s.regs := rfl
@[simp] theorem State.setDraws_sregs : (s.setDraws v).sregs = s.sregs := rfl
@[simp] theorem State.setDraws_ip : (s.setDraws v).ip = s.ip := rfl
@[simp] theorem State.setDraws_flags : (s.setDraws v).flags = s.flags := rfl
@[simp] theorem State.setDraws_segOverride : (s.setDraws v).segOverride = s.segOverride := rfl
@[simp] theorem State.setDraws_rep : (s.setDraws v).rep = s.rep := rfl
@[simp] theorem State.setDraws_instrIP : (s.setDraws v).instrIP = s.instrIP := rfl
@[simp] theorem State.setDraws_run : (s.setDraws v).run = s.run := rfl
@[simp] theorem State.setDraws_ram : (s.setDraws v).ram = s.ram := rfl
@[simp] theorem State.setDraws_readonly : (s.setDraws v).readonly = s.readonly := rfl
@[simp] theorem State.setDraws_shadow : (s.setDraws v).shadow = s.shadow := rfl
@[simp] theorem State.setDraws_pic : (s.setDraws v).pic = s.pic := rfl
@[simp] theorem State.setDraws_disk : (s.setDraws v).disk = s.disk := rfl
@[simp] theorem State.setDraws_video : (s.setDraws v).video = s.video := rfl
@[simp] theorem State.setDraws_hostRunning : (s.setDraws v).hostRunning = s.hostRunning := rfl
@[simp] theorem State.setDraws_hardReset : (s.setDraws v).hardReset = s.hardReset := rfl
@[simp] theorem State.setDraws_bootDrive : (s.setDraws v).bootDrive = s.bootDrive := rfl
@[simp] theorem State.setDraws_batch : (s.setDraws v).batch = s.batch := rfl
@[simp] theorem State.setDraws_events : (s.setDraws v).events = s.events := rfl
@[simp] theorem State.setDraws_params : (s.setDraws v).params = s.params := rfl
@[simp] theorem State.setDraws_draws : (s.setDraws v).draws = v := rfl
@[simp] theorem State.setDraws_setDraws (w : Nat) : (s.setDraws v).setDraws w = s.setDraws w := rfl
@[simp] theorem State.setDraws_self : s.setDraws s.draws = s := rfl
end

end Sys2Proof.Machine
end

