-- ==== Sys2Proof/Laws/Frames.lean ====
section
/-! SUPPORT. What each shared operation leaves unchanged: one lemma for each operation and each field. -/

namespace Sys2Proof.Machine

variable (s : State)

/-! `setReg16` changes `regs`. -/

@[simp] theorem setReg16_sregs (k : Reg16) (v : Word) : (setReg16 k v s).sregs = s.sregs := by simp [setReg16]
@[simp] theorem setReg16_ip (k : Reg16) (v : Word) : (setReg16 k v s).ip = s.ip := by simp [setReg16]
@[simp] theorem setReg16_flags (k : Reg16) (v : Word) : (setReg16 k v s).flags = s.flags := by simp [setReg16]
@[simp] theorem setReg16_segOverride (k : Reg16) (v : Word) : (setReg16 k v s).segOverride = s.segOverride := by simp [setReg16]
@[simp] theorem setReg16_rep (k : Reg16) (v : Word) : (setReg16 k v s).rep = s.rep := by simp [setReg16]
@[simp] theorem setReg16_instrIP (k : Reg16) (v : Word) : (setReg16 k v s).instrIP = s.instrIP := by simp [setReg16]
@[simp] theorem setReg16_run (k : Reg16) (v : Word) : (setReg16 k v s).run = s.run := by simp [setReg16]
@[simp] theorem setReg16_ram (k : Reg16) (v : Word) : (setReg16 k v s).ram = s.ram := by simp [setReg16]
@[simp] theorem setReg16_readonly (k : Reg16) (v : Word) : (setReg16 k v s).readonly = s.readonly := by simp [setReg16]
@[simp] theorem setReg16_shadow (k : Reg16) (v : Word) : (setReg16 k v s).shadow = s.shadow := by simp [setReg16]
@[simp] theorem setReg16_pic (k : Reg16) (v : Word) : (setReg16 k v s).pic = s.pic := by simp [setReg16]
@[simp] theorem setReg16_disk (k : Reg16) (v : Word) : (setReg16 k v s).disk = s.disk := by simp [setReg16]
@[simp] theorem setReg16_video (k : Reg16) (v : Word) : (setReg16 k v s).video = s.video := by simp [setReg16]
@[simp] theorem setReg16_hostRunning (k : Reg16) (v : Word) : (setReg16 k v s).hostRunning = s.hostRunning := by simp [setReg16]
@[simp] theorem setReg16_hardReset (k : Reg16) (v : Word) : (setReg16 k v s).hardReset = s.hardReset := by simp [setReg16]
@[simp] theorem setReg16_bootDrive (k : Reg16) (v : Word) : (setReg16 k v s).bootDrive = s.bootDrive := by simp [setReg16]
@[simp] theorem setReg16_batch (k : Reg16) (v : Word) : (setReg16 k v s).batch = s.batch := by simp [setReg16]
@[simp] theorem setReg16_events (k : Reg16) (v : Word) : (setReg16 k v s).events = s.events := by simp [setReg16]
@[simp] theorem setReg16_params (k : Reg16) (v : Word) : (setReg16 k v s).params = s.params := by simp [setReg16]
@[simp] theorem setReg16_draws (k : Reg16) (v : Word) : (setReg16 k v s).draws = s.draws := by simp [setReg16]

/-! `setReg8` changes `regs`. -/

@[simp] theorem setReg8_sregs (k : Reg8) (v : Byte) : (setReg8 k v s).sregs = s.sregs := by simp [setReg8]
@[simp] theorem setReg8_ip (k : Reg8) (v : Byte) : (setReg8 k v s).ip = s.ip := by simp [setReg8]
@[simp] theorem setReg8_flags (k : Reg8) (v : Byte) : (setReg8 k v s).flags = s.flags := by simp [setReg8]
@[simp] theorem setReg8_segOverride (k : Reg8) (v : Byte) : (setReg8 k v s).segOverride = s.segOverride := by simp [setReg8]
@[simp] theorem setReg8_rep (k : Reg8) (v : Byte) : (setReg8 k v s).rep = s.rep := by simp [setReg8]
@[simp] theorem setReg8_instrIP (k : Reg8) (v : Byte) : (setReg8 k v s).instrIP = s.instrIP := by simp [setReg8]
@[simp] theorem setReg8_run (k : Reg8) (v : Byte) : (setReg8 k v s).run = s.run := by simp [setReg8]
@[simp] theorem setReg8_ram (k : Reg8) (v : Byte) : (setReg8 k v s).ram = s.ram := by simp [setReg8]
@[simp] theorem setReg8_readonly (k : Reg8) (v : Byte) : (setReg8 k v s).readonly = s.readonly := by simp [setReg8]
@[simp] theorem setReg8_shadow (k : Reg8) (v : Byte) : (setReg8 k v s).shadow = s.shadow := by simp [setReg8]
@[simp] theorem setReg8_pic (k : Reg8) (v : Byte) : (setReg8 k v s).pic = s.pic := by simp [setReg8]
@[simp] theorem setReg8_disk (k : Reg8) (v : Byte) : (setReg8 k v s).disk = s.disk := by simp [setReg8]
@[simp] theorem setReg8_video (k : Reg8) (v : Byte) : (setReg8 k v s).video = s.video := by simp [setReg8]
@[simp] theorem setReg8_hostRunning (k : Reg8) (v : Byte) : (setReg8 k v s).hostRunning = s.hostRunning := by simp [setReg8]
@[simp] theorem setReg8_hardReset (k : Reg8) (v : Byte) : (setReg8 k v s).hardReset = s.hardReset := by simp [setReg8]
@[simp] theorem setReg8_bootDrive (k : Reg8) (v : Byte) : (setReg8 k v s).bootDrive = s.bootDrive := by simp [setReg8]
@[simp] theorem setReg8_batch (k : Reg8) (v : Byte) : (setReg8 k v s).batch = s.batch := by simp [setReg8]
@[simp] theorem setReg8_events (k : Reg8) (v : Byte) : (setReg8 k v s).events = s.events := by simp [setReg8]
@[simp] theorem setReg8_params (k : Reg8) (v : Byte) : (setReg8 k v s).params = s.params := by simp [setReg8]
@[simp] theorem setReg8_draws (k : Reg8) (v : Byte) : (setReg8 k v s).draws = s.draws := by simp [setReg8]

/-! `setSreg` changes `sregs`. -/

@[simp] theorem setSreg_regs (k : Sreg) (v : Word) : (setSreg k v s).regs = s.regs := by simp [setSreg]
@[simp] theorem setSreg_ip (k : Sreg) (v : Word) : (setSreg k v s).ip = s.ip := by simp [setSreg]
@[simp] theorem setSreg_flags (k : Sreg) (v : Word) : (setSreg k v s).flags = s.flags := by simp [setSreg]
@[simp] theorem setSreg_segOverride (k : Sreg) (v : Word) : (setSreg k v s).segOverride = s.segOverride := by simp [setSreg]
@[simp] theorem setSreg_rep (k : Sreg) (v : Word) : (setSreg k v s).rep = s.rep := by simp [setSreg]
@[simp] theorem setSreg_instrIP (k : Sreg) (v : Word) : (setSreg k v s).instrIP = s.instrIP := by simp [setSreg]
@[simp] theorem setSreg_run (k : Sreg) (v : Word) : (setSreg k v s).run = s.run := by simp [setSreg]
@[simp] theorem setSreg_ram (k : Sreg) (v : Word) : (setSreg k v s).ram = s.ram := by simp [setSreg]
@[simp] theorem setSreg_readonly (k : Sreg) (v : Word) : (setSreg k v s).readonly = s.readonly := by simp [setSreg]
@[simp] theorem setSreg_shadow (k : Sreg) (v : Word) : (setSreg k v s).shadow = s.shadow := by simp [setSreg]
@[simp] theorem setSreg_pic (k : Sreg) (v : Word) : (setSreg k v s).pic = s.pic := by simp [setSreg]
@[simp] theorem setSreg_disk (k : Sreg) (v : Word) : (setSreg k v s).disk = s.disk := by simp [setSreg]
@[simp] theorem setSreg_video (k : Sreg) (v : Word) : (setSreg k v s).video = s.video := by simp [setSreg]
@[simp] theorem setSreg_hostRunning (k : Sreg) (v : Word) : (setSreg k v s).hostRunning = s.hostRunning := by simp [setSreg]
@[simp] theorem setSreg_hardReset (k : Sreg) (v : Word) : (setSreg k v s).hardReset = s.hardReset := by simp [setSreg]
@[simp] theorem setSreg_bootDrive (k : Sreg) (v : Word) : (setSreg k v s).bootDrive = s.bootDrive := by simp [setSreg]
@[simp] theorem setSreg_batch (k : Sreg) (v : Word) : (setSreg k v s).batch = s.batch := by simp [setSreg]
@[simp] theorem setSreg_events (k : Sreg) (v : Word) : (setSreg k v s).events = s.events := by simp [setSreg]
@[simp] theorem setSreg_params (k : Sreg) (v : Word) : (setSreg k v s).params = s.params := by simp [setSreg]
@[simp] theorem setSreg_draws (k : Sreg) (v : Word) : (setSreg k v s).draws = s.draws := by simp [setSreg]

/-! `setFlag` changes `flags`. -/

@[simp] theorem setFlag_regs (k : Flag) (b : Bool) : (setFlag k b s).regs = s.regs := by simp [setFlag]
@[simp] theorem setFlag_sregs (k : Flag) (b : Bool) : (setFlag k b s).sregs = s.sregs := by simp [setFlag]
@[simp] theorem setFlag_ip (k : Flag) (b : Bool) : (setFlag k b s).ip = s.ip := by simp [setFlag]
@[simp] theorem setFlag_segOverride (k : Flag) (b : Bool) : (setFlag k b s).segOverride = s.segOverride := by simp [setFlag]
@[simp] theorem setFlag_rep (k : Flag) (b : Bool) : (setFlag k b s).rep = s.rep := by simp [setFlag]
@[simp] theorem setFlag_instrIP (k : Flag) (b : Bool) : (setFlag k b s).instrIP = s.instrIP := by simp [setFlag]
@[simp] theorem setFlag_run (k : Flag) (b : Bool) : (setFlag k b s).run = s.run := by simp [setFlag]
@[simp] theorem setFlag_ram (k : Flag) (b : Bool) : (setFlag k b s).ram = s.ram := by simp [setFlag]
@[simp] theorem setFlag_readonly (k : Flag) (b : Bool) : (setFlag k b s).readonly = s.readonly := by simp [setFlag]
@[simp] theorem setFlag_shadow (k : Flag) (b : Bool) : (setFlag k b s).shadow = s.shadow := by simp [setFlag]
@[simp] theorem setFlag_pic (k : Flag) (b : Bool) : (setFlag k b s).pic = s.pic := by simp [setFlag]
@[simp] theorem setFlag_disk (k : Flag) (b : Bool) : (setFlag k b s).disk = s.disk := by simp [setFlag]
@[simp] theorem setFlag_video (k : Flag) (b : Bool) : (setFlag k b s).video = s.video := by simp [setFlag]
@[simp] theorem setFlag_hostRunning (k : Flag) (b : Bool) : (setFlag k b s).hostRunning = s.hostRunning := by simp [setFlag]
@[simp] theorem setFlag_hardReset (k : Flag) (b : Bool) : (setFlag k b s).hardReset = s.hardReset := by simp [setFlag]
@[simp] theorem setFlag_bootDrive (k : Flag) (b : Bool) : (setFlag k b s).bootDrive = s.bootDrive := by simp [setFlag]
@[simp] theorem setFlag_batch (k : Flag) (b : Bool) : (setFlag k b s).batch = s.batch := by simp [setFlag]
@[simp] theorem setFlag_events (k : Flag) (b : Bool) : (setFlag k b s).events = s.events := by simp [setFlag]
@[simp] theorem setFlag_params (k : Flag) (b : Bool) : (setFlag k b s).params = s.params := by simp [setFlag]
@[simp] theorem setFlag_draws (k : Flag) (b : Bool) : (setFlag k b s).draws = s.draws := by simp [setFlag]

/-! `setFlagsWord` changes `flags`. -/

@[simp] theorem setFlagsWord_regs (v : Word) : (setFlagsWord v s).regs = s.regs := by simp [setFlagsWord]
@[simp] theorem setFlagsWord_sregs (v : Word) : (setFlagsWord v s).sregs = s.sregs := by simp [setFlagsWord]
@[simp] theorem setFlagsWord_ip (v : Word) : (setFlagsWord v s).ip = s.ip := by simp [setFlagsWord]
@[simp] theorem setFlagsWord_segOverride (v : Word) : (setFlagsWord v s).segOverride = s.segOverride := by simp [setFlagsWord]
@[simp] theorem setFlagsWord_rep (v : Word) : (setFlagsWord v s).rep = s.rep := by simp [setFlagsWord]
@[simp] theorem setFlagsWord_instrIP (v : Word) : (setFlagsWord v s).instrIP = s.instrIP := by simp [setFlagsWord]
@[simp] theorem setFlagsWord_run (v : Word) : (setFlagsWord v s).run = s.run := by simp [setFlagsWord]
@[simp] theorem setFlagsWord_ram (v : Word) : (setFlagsWord v s).ram = s.ram := by simp [setFlagsWord]
@[simp] theorem setFlagsWord_readonly (v : Word) : (setFlagsWord v s).readonly = s.readonly := by simp [setFlagsWord]
@[simp] theorem setFlagsWord_shadow (v : Word) : (setFlagsWord v s).shadow = s.shadow := by simp [setFlagsWord]
@[simp] theorem setFlagsWord_pic (v : Word) : (setFlagsWord v s).pic = s.pic := by simp [setFlagsWord]
@[simp] theorem setFlagsWord_disk (v : Word) : (setFlagsWord v s).disk = s.disk := by simp [setFlagsWord]
@[simp] theorem setFlagsWord_video (v : Word) : (setFlagsWord v s).video = s.video := by simp [setFlagsWord]
@[simp] theorem setFlagsWord_hostRunning (v : Word) : (setFlagsWord v s).hostRunning = s.hostRunning := by simp [setFlagsWord]
@[simp] theorem setFlagsWord_hardReset (v : Word) : (setFlagsWord v s).hardReset = s.hardReset := by simp [setFlagsWord]
@[simp] theorem setFlagsWord_bootDrive (v : Word) : (setFlagsWord v s).bootDrive = s.bootDrive := by simp [setFlagsWord]
@[simp] theorem setFlagsWord_batch (v : Word) : (setFlagsWord v s).batch = s.batch := by simp [setFlagsWord]
@[simp] theorem setFlagsWord_events (v : Word) : (setFlagsWord v s).events = s.events := by simp [setFlagsWord]
@[simp] theorem setFlagsWord_params (v : Word) : (setFlagsWord v s).params = s.params := by simp [setFlagsWord]
@[simp] theorem setFlagsWord_draws (v : Word) : (setFlagsWord v s).draws = s.draws := by simp [setFlagsWord]

/-! `addFlags` changes `flags`. -/

@[simp] theorem addFlags_regs {w : Nat} (a b : BitVec w) (c : Bool) : (addFlags a b c s).regs = s.regs := by simp [addFlags]
@[simp] theorem addFlags_sregs {w : Nat} (a b : BitVec w) (c : Bool) : (addFlags a b c s).sregs = s.sregs := by simp [addFlags]
@[simp] theorem addFlags_ip {w : Nat} (a b : BitVec w) (c : Bool) : (addFlags a b c s).ip = s.ip := by simp [addFlags]
@[simp] theorem addFlags_segOverride {w : Nat} (a b : BitVec w) (c : Bool) : (addFlags a b c s).segOverride = s.segOverride := by simp [addFlags]
@[simp] theorem addFlags_rep {w : Nat} (a b : BitVec w) (c : Bool) : (addFlags a b c s).rep = s.rep := by simp [addFlags]
@[simp] theorem addFlags_instrIP {w : Nat} (a b : BitVec w) (c : Bool) : (addFlags a b c s).instrIP = s.instrIP := by simp [addFlags]
@[simp] theorem addFlags_run {w : Nat} (a b : BitVec w) (c : Bool) : (addFlags a b c s).run = s.run := by simp [addFlags]
@[simp] theorem addFlags_ram {w : Nat} (a b : BitVec w) (c : Bool) : (addFlags a b c s).ram = s.ram := by simp [addFlags]
@[simp] theorem addFlags_readonly {w : Nat} (a b : BitVec w) (c : Bool) : (addFlags a b c s).readonly = s.readonly := by simp [addFlags]
@[simp] theorem addFlags_shadow {w : Nat} (a b : BitVec w) (c : Bool) : (addFlags a b c s).shadow = s.shadow := by simp [addFlags]
@[simp] theorem addFlags_pic {w : Nat} (a b : BitVec w) (c : Bool) : (addFlags a b c s).pic = s.pic := by simp [addFlags]
@[simp] theorem addFlags_disk {w : Nat} (a b : BitVec w) (c : Bool) : (addFlags a b c s).disk = s.disk := by simp [addFlags]
@[simp] theorem addFlags_video {w : Nat} (a b : BitVec w) (c : Bool) : (addFlags a b c s).video = s.video := by simp [addFlags]
@[simp] theorem addFlags_hostRunning {w : Nat} (a b : BitVec w) (c : Bool) : (addFlags a b c s).hostRunning = s.hostRunning := by simp [addFlags]
@[simp] theorem addFlags_hardReset {w : Nat} (a b : BitVec w) (c : Bool) : (addFlags a b c s).hardReset = s.hardReset := by simp [addFlags]
@[simp] theorem addFlags_bootDrive {w : Nat} (a b : BitVec w) (c : Bool) : (addFlags a b c s).bootDrive = s.bootDrive := by simp [addFlags]
@[simp] theorem addFlags_batch {w : Nat} (a b : BitVec w) (c : Bool) : (addFlags a b c s).batch = s.batch := by simp [addFlags]
@[simp] theorem addFlags_events {w : Nat} (a b : BitVec w) (c : Bool) : (addFlags a b c s).events = s.events := by simp [addFlags]
@[simp] theorem addFlags_params {w : Nat} (a b : BitVec w) (c : Bool) : (addFlags a b c s).params = s.params := by simp [addFlags]
@[simp] theorem addFlags_draws {w : Nat} (a b : BitVec w) (c : Bool) : (addFlags a b c s).draws = s.draws := by simp [addFlags]

/-! `subFlags` changes `flags`. -/

@[simp] theorem subFlags_regs {w : Nat} (a b : BitVec w) (c : Bool) : (subFlags a b c s).regs = s.regs := by simp [subFlags]
@[simp] theorem subFlags_sregs {w : Nat} (a b : BitVec w) (c : Bool) : (subFlags a b c s).sregs = s.sregs := by simp [subFlags]
@[simp] theorem subFlags_ip {w : Nat} (a b : BitVec w) (c : Bool) : (subFlags a b c s).ip = s.ip := by simp [subFlags]
@[simp] theorem subFlags_segOverride {w : Nat} (a b : BitVec w) (c : Bool) : (subFlags a b c s).segOverride = s.segOverride := by simp [subFlags]
@[simp] theorem subFlags_rep {w : Nat} (a b : BitVec w) (c : Bool) : (subFlags a b c s).rep = s.rep := by simp [subFlags]
@[simp] theorem subFlags_instrIP {w : Nat} (a b : BitVec w) (c : Bool) : (subFlags a b c s).instrIP = s.instrIP := by simp [subFlags]
@[simp] theorem subFlags_run {w : Nat} (a b : BitVec w) (c : Bool) : (subFlags a b c s).run = s.run := by simp [subFlags]
@[simp] theorem subFlags_ram {w : Nat} (a b : BitVec w) (c : Bool) : (subFlags a b c s).ram = s.ram := by simp [subFlags]
@[simp] theorem subFlags_readonly {w : Nat} (a b : BitVec w) (c : Bool) : (subFlags a b c s).readonly = s.readonly := by simp [subFlags]
@[simp] theorem subFlags_shadow {w : Nat} (a b : BitVec w) (c : Bool) : (subFlags a b c s).shadow = s.shadow := by simp [subFlags]
@[simp] theorem subFlags_pic {w : Nat} (a b : BitVec w) (c : Bool) : (subFlags a b c s).pic = s.pic := by simp [subFlags]
@[simp] theorem subFlags_disk {w : Nat} (a b : BitVec w) (c : Bool) : (subFlags a b c s).disk = s.disk := by simp [subFlags]
@[simp] theorem subFlags_video {w : Nat} (a b : BitVec w) (c : Bool) : (subFlags a b c s).video = s.video := by simp [subFlags]
@[simp] theorem subFlags_hostRunning {w : Nat} (a b : BitVec w) (c : Bool) : (subFlags a b c s).hostRunning = s.hostRunning := by simp [subFlags]
@[simp] theorem subFlags_hardReset {w : Nat} (a b : BitVec w) (c : Bool) : (subFlags a b c s).hardReset = s.hardReset := by simp [subFlags]
@[simp] theorem subFlags_bootDrive {w : Nat} (a b : BitVec w) (c : Bool) : (subFlags a b c s).bootDrive = s.bootDrive := by simp [subFlags]
@[simp] theorem subFlags_batch {w : Nat} (a b : BitVec w) (c : Bool) : (subFlags a b c s).batch = s.batch := by simp [subFlags]
@[simp] theorem subFlags_events {w : Nat} (a b : BitVec w) (c : Bool) : (subFlags a b c s).events = s.events := by simp [subFlags]
@[simp] theorem subFlags_params {w : Nat} (a b : BitVec w) (c : Bool) : (subFlags a b c s).params = s.params := by simp [subFlags]
@[simp] theorem subFlags_draws {w : Nat} (a b : BitVec w) (c : Bool) : (subFlags a b c s).draws = s.draws := by simp [subFlags]

/-! `szpFlags` changes `flags`. -/

@[simp] theorem szpFlags_regs {w : Nat} (r : BitVec w) : (szpFlags r s).regs = s.regs := by simp [szpFlags]
@[simp] theorem szpFlags_sregs {w : Nat} (r : BitVec w) : (szpFlags r s).sregs = s.sregs := by simp [szpFlags]
@[simp] theorem szpFlags_ip {w : Nat} (r : BitVec w) : (szpFlags r s).ip = s.ip := by simp [szpFlags]
@[simp] theorem szpFlags_segOverride {w : Nat} (r : BitVec w) : (szpFlags r s).segOverride = s.segOverride := by simp [szpFlags]
@[simp] theorem szpFlags_rep {w : Nat} (r : BitVec w) : (szpFlags r s).rep = s.rep := by simp [szpFlags]
@[simp] theorem szpFlags_instrIP {w : Nat} (r : BitVec w) : (szpFlags r s).instrIP = s.instrIP := by simp [szpFlags]
@[simp] theorem szpFlags_run {w : Nat} (r : BitVec w) : (szpFlags r s).run = s.run := by simp [szpFlags]
@[simp] theorem szpFlags_ram {w : Nat} (r : BitVec w) : (szpFlags r s).ram = s.ram := by simp [szpFlags]
@[simp] theorem szpFlags_readonly {w : Nat} (r : BitVec w) : (szpFlags r s).readonly = s.readonly := by simp [szpFlags]
@[simp] theorem szpFlags_shadow {w : Nat} (r : BitVec w) : (szpFlags r s).shadow = s.shadow := by simp [szpFlags]
@[simp] theorem szpFlags_pic {w : Nat} (r : BitVec w) : (szpFlags r s).pic = s.pic := by simp [szpFlags]
@[simp] theorem szpFlags_disk {w : Nat} (r : BitVec w) : (szpFlags r s).disk = s.disk := by simp [szpFlags]
@[simp] theorem szpFlags_video {w : Nat} (r : BitVec w) : (szpFlags r s).video = s.video := by simp [szpFlags]
@[simp] theorem szpFlags_hostRunning {w : Nat} (r : BitVec w) : (szpFlags r s).hostRunning = s.hostRunning := by simp [szpFlags]
@[simp] theorem szpFlags_hardReset {w : Nat} (r : BitVec w) : (szpFlags r s).hardReset = s.hardReset := by simp [szpFlags]
@[simp] theorem szpFlags_bootDrive {w : Nat} (r : BitVec w) : (szpFlags r s).bootDrive = s.bootDrive := by simp [szpFlags]
@[simp] theorem szpFlags_batch {w : Nat} (r : BitVec w) : (szpFlags r s).batch = s.batch := by simp [szpFlags]
@[simp] theorem szpFlags_events {w : Nat} (r : BitVec w) : (szpFlags r s).events = s.events := by simp [szpFlags]
@[simp] theorem szpFlags_params {w : Nat} (r : BitVec w) : (szpFlags r s).params = s.params := by simp [szpFlags]
@[simp] theorem szpFlags_draws {w : Nat} (r : BitVec w) : (szpFlags r s).draws = s.draws := by simp [szpFlags]

/-! `drawFlag` changes `flags`, `draws`. -/

@[simp] theorem drawFlag_regs (k : Flag) : (drawFlag k s).regs = s.regs := by simp [drawFlag]
@[simp] theorem drawFlag_sregs (k : Flag) : (drawFlag k s).sregs = s.sregs := by simp [drawFlag]
@[simp] theorem drawFlag_ip (k : Flag) : (drawFlag k s).ip = s.ip := by simp [drawFlag]
@[simp] theorem drawFlag_segOverride (k : Flag) : (drawFlag k s).segOverride = s.segOverride := by simp [drawFlag]
@[simp] theorem drawFlag_rep (k : Flag) : (drawFlag k s).rep = s.rep := by simp [drawFlag]
@[simp] theorem drawFlag_instrIP (k : Flag) : (drawFlag k s).instrIP = s.instrIP := by simp [drawFlag]
@[simp] theorem drawFlag_run (k : Flag) : (drawFlag k s).run = s.run := by simp [drawFlag]
@[simp] theorem drawFlag_ram (k : Flag) : (drawFlag k s).ram = s.ram := by simp [drawFlag]
@[simp] theorem drawFlag_readonly (k : Flag) : (drawFlag k s).readonly = s.readonly := by simp [drawFlag]
@[simp] theorem drawFlag_shadow (k : Flag) : (drawFlag k s).shadow = s.shadow := by simp [drawFlag]
@[simp] theorem drawFlag_pic (k : Flag) : (drawFlag k s).pic = s.pic := by simp [drawFlag]
@[simp] theorem drawFlag_disk (k : Flag) : (drawFlag k s).disk = s.disk := by simp [drawFlag]
@[simp] theorem drawFlag_video (k : Flag) : (drawFlag k s).video = s.video := by simp [drawFlag]
@[simp] theorem drawFlag_hostRunning (k : Flag) : (drawFlag k s).hostRunning = s.hostRunning := by simp [drawFlag]
@[simp] theorem drawFlag_hardReset (k : Flag) : (drawFlag k s).hardReset = s.hardReset := by simp [drawFlag]
@[simp] theorem drawFlag_bootDrive (k : Flag) : (drawFlag k s).bootDrive = s.bootDrive := by simp [drawFlag]
@[simp] theorem drawFlag_batch (k : Flag) : (drawFlag k s).batch = s.batch := by simp [drawFlag]
@[simp] theorem drawFlag_events (k : Flag) : (drawFlag k s).events = s.events := by simp [drawFlag]
@[simp] theorem drawFlag_params (k : Flag) : (drawFlag k s).params = s.params := by simp [drawFlag]

/-! `undefine` changes `flags`, `draws`. -/

@[simp] theorem undefine_regs (ks : List Flag) : (undefine ks s).regs = s.regs := by
  induction ks generalizing s with
  | nil => rfl
  | cons k ks ih => exact (ih (drawFlag k s)).trans (by simp)
@[simp] theorem undefine_sregs (ks : List Flag) : (undefine ks s).sregs = s.sregs := by
  induction ks generalizing s with
  | nil => rfl
  | cons k ks ih => exact (ih (drawFlag k s)).trans (by simp)
@[simp] theorem undefine_ip (ks : List Flag) : (undefine ks s).ip = s.ip := by
  induction ks generalizing s with
  | nil => rfl
  | cons k ks ih => exact (ih (drawFlag k s)).trans (by simp)
@[simp] theorem undefine_segOverride (ks : List Flag) : (undefine ks s).segOverride = s.segOverride := by
  induction ks generalizing s with
  | nil => rfl
  | cons k ks ih => exact (ih (drawFlag k s)).trans (by simp)
@[simp] theorem undefine_rep (ks : List Flag) : (undefine ks s).rep = s.rep := by
  induction ks generalizing s with
  | nil => rfl
  | cons k ks ih => exact (ih (drawFlag k s)).trans (by simp)
@[simp] theorem undefine_instrIP (ks : List Flag) : (undefine ks s).instrIP = s.instrIP := by
  induction ks generalizing s with
  | nil => rfl
  | cons k ks ih => exact (ih (drawFlag k s)).trans (by simp)
@[simp] theorem undefine_run (ks : List Flag) : (undefine ks s).run = s.run := by
  induction ks generalizing s with
  | nil => rfl
  | cons k ks ih => exact (ih (drawFlag k s)).trans (by simp)
@[simp] theorem undefine_ram (ks : List Flag) : (undefine ks s).ram = s.ram := by
  induction ks generalizing s with
  | nil => rfl
  | cons k ks ih => exact (ih (drawFlag k s)).trans (by simp)
@[simp] theorem undefine_readonly (ks : List Flag) : (undefine ks s).readonly = s.readonly := by
  induction ks generalizing s with
  | nil => rfl
  | cons k ks ih => exact (ih (drawFlag k s)).trans (by simp)
@[simp] theorem undefine_shadow (ks : List Flag) : (undefine ks s).shadow = s.shadow := by
  induction ks generalizing s with
  | nil => rfl
  | cons k ks ih => exact (ih (drawFlag k s)).trans (by simp)
@[simp] theorem undefine_pic (ks : List Flag) : (undefine ks s).pic = s.pic := by
  induction ks generalizing s with
  | nil => rfl
  | cons k ks ih => exact (ih (drawFlag k s)).trans (by simp)
@[simp] theorem undefine_disk (ks : List Flag) : (undefine ks s).disk = s.disk := by
  induction ks generalizing s with
  | nil => rfl
  | cons k ks ih => exact (ih (drawFlag k s)).trans (by simp)
@[simp] theorem undefine_video (ks : List Flag) : (undefine ks s).video = s.video := by
  induction ks generalizing s with
  | nil => rfl
  | cons k ks ih => exact (ih (drawFlag k s)).trans (by simp)
@[simp] theorem undefine_hostRunning (ks : List Flag) : (undefine ks s).hostRunning = s.hostRunning := by
  induction ks generalizing s with
  | nil => rfl
  | cons k ks ih => exact (ih (drawFlag k s)).trans (by simp)
@[simp] theorem undefine_hardReset (ks : List Flag) : (undefine ks s).hardReset = s.hardReset := by
  induction ks generalizing s with
  | nil => rfl
  | cons k ks ih => exact (ih (drawFlag k s)).trans (by simp)
@[simp] theorem undefine_bootDrive (ks : List Flag) : (undefine ks s).bootDrive = s.bootDrive := by
  induction ks generalizing s with
  | nil => rfl
  | cons k ks ih => exact (ih (drawFlag k s)).trans (by simp)
@[simp] theorem undefine_batch (ks : List Flag) : (undefine ks s).batch = s.batch := by
  induction ks generalizing s with
  | nil => rfl
  | cons k ks ih => exact (ih (drawFlag k s)).trans (by simp)
@[simp] theorem undefine_events (ks : List Flag) : (undefine ks s).events = s.events := by
  induction ks generalizing s with
  | nil => rfl
  | cons k ks ih => exact (ih (drawFlag k s)).trans (by simp)
@[simp] theorem undefine_params (ks : List Flag) : (undefine ks s).params = s.params := by
  induction ks generalizing s with
  | nil => rfl
  | cons k ks ih => exact (ih (drawFlag k s)).trans (by simp)

/-! `logicFlags` changes `flags`, `draws`. -/

@[simp] theorem logicFlags_regs {w : Nat} (r : BitVec w) : (logicFlags r s).regs = s.regs := by simp [logicFlags]
@[simp] theorem logicFlags_sregs {w : Nat} (r : BitVec w) : (logicFlags r s).sregs = s.sregs := by simp [logicFlags]
@[simp] theorem logicFlags_ip {w : Nat} (r : BitVec w) : (logicFlags r s).ip = s.ip := by simp [logicFlags]
@[simp] theorem logicFlags_segOverride {w : Nat} (r : BitVec w) : (logicFlags r s).segOverride = s.segOverride := by simp [logicFlags]
@[simp] theorem logicFlags_rep {w : Nat} (r : BitVec w) : (logicFlags r s).rep = s.rep := by simp [logicFlags]
@[simp] theorem logicFlags_instrIP {w : Nat} (r : BitVec w) : (logicFlags r s).instrIP = s.instrIP := by simp [logicFlags]
@[simp] theorem logicFlags_run {w : Nat} (r : BitVec w) : (logicFlags r s).run = s.run := by simp [logicFlags]
@[simp] theorem logicFlags_ram {w : Nat} (r : BitVec w) : (logicFlags r s).ram = s.ram := by simp [logicFlags]
@[simp] theorem logicFlags_readonly {w : Nat} (r : BitVec w) : (logicFlags r s).readonly = s.readonly := by simp [logicFlags]
@[simp] theorem logicFlags_shadow {w : Nat} (r : BitVec w) : (logicFlags r s).shadow = s.shadow := by simp [logicFlags]
@[simp] theorem logicFlags_pic {w : Nat} (r : BitVec w) : (logicFlags r s).pic = s.pic := by simp [logicFlags]
@[simp] theorem logicFlags_disk {w : Nat} (r : BitVec w) : (logicFlags r s).disk = s.disk := by simp [logicFlags]
@[simp] theorem logicFlags_video {w : Nat} (r : BitVec w) : (logicFlags r s).video = s.video := by simp [logicFlags]
@[simp] theorem logicFlags_hostRunning {w : Nat} (r : BitVec w) : (logicFlags r s).hostRunning = s.hostRunning := by simp [logicFlags]
@[simp] theorem logicFlags_hardReset {w : Nat} (r : BitVec w) : (logicFlags r s).hardReset = s.hardReset := by simp [logicFlags]
@[simp] theorem logicFlags_bootDrive {w : Nat} (r : BitVec w) : (logicFlags r s).bootDrive = s.bootDrive := by simp [logicFlags]
@[simp] theorem logicFlags_batch {w : Nat} (r : BitVec w) : (logicFlags r s).batch = s.batch := by simp [logicFlags]
@[simp] theorem logicFlags_events {w : Nat} (r : BitVec w) : (logicFlags r s).events = s.events := by simp [logicFlags]
@[simp] theorem logicFlags_params {w : Nat} (r : BitVec w) : (logicFlags r s).params = s.params := by simp [logicFlags]

/-! `touch8` changes `video`. -/

@[simp] theorem touch8_regs (a : Linear) : (touch8 a s).regs = s.regs := by unfold touch8; split <;> rfl
@[simp] theorem touch8_sregs (a : Linear) : (touch8 a s).sregs = s.sregs := by unfold touch8; split <;> rfl
@[simp] theorem touch8_ip (a : Linear) : (touch8 a s).ip = s.ip := by unfold touch8; split <;> rfl
@[simp] theorem touch8_flags (a : Linear) : (touch8 a s).flags = s.flags := by unfold touch8; split <;> rfl
@[simp] theorem touch8_segOverride (a : Linear) : (touch8 a s).segOverride = s.segOverride := by unfold touch8; split <;> rfl
@[simp] theorem touch8_rep (a : Linear) : (touch8 a s).rep = s.rep := by unfold touch8; split <;> rfl
@[simp] theorem touch8_instrIP (a : Linear) : (touch8 a s).instrIP = s.instrIP := by unfold touch8; split <;> rfl
@[simp] theorem touch8_run (a : Linear) : (touch8 a s).run = s.run := by unfold touch8; split <;> rfl
@[simp] theorem touch8_ram (a : Linear) : (touch8 a s).ram = s.ram := by unfold touch8; split <;> rfl
@[simp] theorem touch8_readonly (a : Linear) : (touch8 a s).readonly = s.readonly := by unfold touch8; split <;> rfl
@[simp] theorem touch8_shadow (a : Linear) : (touch8 a s).shadow = s.shadow := by unfold touch8; split <;> rfl
@[simp] theorem touch8_pic (a : Linear) : (touch8 a s).pic = s.pic := by unfold touch8; split <;> rfl
@[simp] theorem touch8_disk (a : Linear) : (touch8 a s).disk = s.disk := by unfold touch8; split <;> rfl
@[simp] theorem touch8_hostRunning (a : Linear) : (touch8 a s).hostRunning = s.hostRunning := by unfold touch8; split <;> rfl
@[simp] theorem touch8_hardReset (a : Linear) : (touch8 a s).hardReset = s.hardReset := by unfold touch8; split <;> rfl
@[simp] theorem touch8_bootDrive (a : Linear) : (touch8 a s).bootDrive = s.bootDrive := by unfold touch8; split <;> rfl
@[simp] theorem touch8_batch (a : Linear) : (touch8 a s).batch = s.batch := by unfold touch8; split <;> rfl
@[simp] theorem touch8_events (a : Linear) : (touch8 a s).events = s.events := by unfold touch8; split <;> rfl
@[simp] theorem touch8_params (a : Linear) : (touch8 a s).params = s.params := by unfold touch8; split <;> rfl
@[simp] theorem touch8_draws (a : Linear) : (touch8 a s).draws = s.draws := by unfold touch8; split <;> rfl

/-! `touch16` changes `video`. -/

@[simp] theorem touch16_regs (a : Linear) : (touch16 a s).regs = s.regs := by simp [touch16]
@[simp] theorem touch16_sregs (a : Linear) : (touch16 a s).sregs = s.sregs := by simp [touch16]
@[simp] theorem touch16_ip (a : Linear) : (touch16 a s).ip = s.ip := by simp [touch16]
@[simp] theorem touch16_flags (a : Linear) : (touch16 a s).flags = s.flags := by simp [touch16]
@[simp] theorem touch16_segOverride (a : Linear) : (touch16 a s).segOverride = s.segOverride := by simp [touch16]
@[simp] theorem touch16_rep (a : Linear) : (touch16 a s).rep = s.rep := by simp [touch16]
@[simp] theorem touch16_instrIP (a : Linear) : (touch16 a s).instrIP = s.instrIP := by simp [touch16]
@[simp] theorem touch16_run (a : Linear) : (touch16 a s).run = s.run := by simp [touch16]
@[simp] theorem touch16_ram (a : Linear) : (touch16 a s).ram = s.ram := by simp [touch16]
@[simp] theorem touch16_readonly (a : Linear) : (touch16 a s).readonly = s.readonly := by simp [touch16]
@[simp] theorem touch16_shadow (a : Linear) : (touch16 a s).shadow = s.shadow := by simp [touch16]
@[simp] theorem touch16_pic (a : Linear) : (touch16 a s).pic = s.pic := by simp [touch16]
@[simp] theorem touch16_disk (a : Linear) : (touch16 a s).disk = s.disk := by simp [touch16]
@[simp] theorem touch16_hostRunning (a : Linear) : (touch16 a s).hostRunning = s.hostRunning := by simp [touch16]
@[simp] theorem touch16_hardReset (a : Linear) : (touch16 a s).hardReset = s.hardReset := by simp [touch16]
@[simp] theorem touch16_bootDrive (a : Linear) : (touch16 a s).bootDrive = s.bootDrive := by simp [touch16]
@[simp] theorem touch16_batch (a : Linear) : (touch16 a s).batch = s.batch := by simp [touch16]
@[simp] theorem touch16_events (a : Linear) : (touch16 a s).events = s.events := by simp [touch16]
@[simp] theorem touch16_params (a : Linear) : (touch16 a s).params = s.params := by simp [touch16]
@[simp] theorem touch16_draws (a : Linear) : (touch16 a s).draws = s.draws := by simp [touch16]

/-! `write8` changes `ram`, `video`. -/

@[simp] theorem write8_regs (a : Linear) (v : Byte) : (write8 a v s).regs = s.regs := by unfold write8; split <;> [rfl; (split <;> rfl)]
@[simp] theorem write8_sregs (a : Linear) (v : Byte) : (write8 a v s).sregs = s.sregs := by unfold write8; split <;> [rfl; (split <;> rfl)]
@[simp] theorem write8_ip (a : Linear) (v : Byte) : (write8 a v s).ip = s.ip := by unfold write8; split <;> [rfl; (split <;> rfl)]
@[simp] theorem write8_flags (a : Linear) (v : Byte) : (write8 a v s).flags = s.flags := by unfold write8; split <;> [rfl; (split <;> rfl)]
@[simp] theorem write8_segOverride (a : Linear) (v : Byte) : (write8 a v s).segOverride = s.segOverride := by unfold write8; split <;> [rfl; (split <;> rfl)]
@[simp] theorem write8_rep (a : Linear) (v : Byte) : (write8 a v s).rep = s.rep := by unfold write8; split <;> [rfl; (split <;> rfl)]
@[simp] theorem write8_instrIP (a : Linear) (v : Byte) : (write8 a v s).instrIP = s.instrIP := by unfold write8; split <;> [rfl; (split <;> rfl)]
@[simp] theorem write8_run (a : Linear) (v : Byte) : (write8 a v s).run = s.run := by unfold write8; split <;> [rfl; (split <;> rfl)]
@[simp] theorem write8_readonly (a : Linear) (v : Byte) : (write8 a v s).readonly = s.readonly := by unfold write8; split <;> [rfl; (split <;> rfl)]
@[simp] theorem write8_shadow (a : Linear) (v : Byte) : (write8 a v s).shadow = s.shadow := by unfold write8; split <;> [rfl; (split <;> rfl)]
@[simp] theorem write8_pic (a : Linear) (v : Byte) : (write8 a v s).pic = s.pic := by unfold write8; split <;> [rfl; (split <;> rfl)]
@[simp] theorem write8_disk (a : Linear) (v : Byte) : (write8 a v s).disk = s.disk := by unfold write8; split <;> [rfl; (split <;> rfl)]
@[simp] theorem write8_hostRunning (a : Linear) (v : Byte) : (write8 a v s).hostRunning = s.hostRunning := by unfold write8; split <;> [rfl; (split <;> rfl)]
@[simp] theorem write8_hardReset (a : Linear) (v : Byte) : (write8 a v s).hardReset = s.hardReset := by unfold write8; split <;> [rfl; (split <;> rfl)]
@[simp] theorem write8_bootDrive (a : Linear) (v : Byte) : (write8 a v s).bootDrive = s.bootDrive := by unfold write8; split <;> [rfl; (split <;> rfl)]
@[simp] theorem write8_batch (a : Linear) (v : Byte) : (write8 a v s).batch = s.batch := by unfold write8; split <;> [rfl; (split <;> rfl)]
@[simp] theorem write8_events (a : Linear) (v : Byte) : (write8 a v s).events = s.events := by unfold write8; split <;> [rfl; (split <;> rfl)]
@[simp] theorem write8_params (a : Linear) (v : Byte) : (write8 a v s).params = s.params := by unfold write8; split <;> [rfl; (split <;> rfl)]
@[simp] theorem write8_draws (a : Linear) (v : Byte) : (write8 a v s).draws = s.draws := by unfold write8; split <;> [rfl; (split <;> rfl)]

/-! `write16` changes `ram`, `video`. -/

@[simp] theorem write16_regs (a : Linear) (v : Word) : (write16 a v s).regs = s.regs := by simp [write16]
@[simp] theorem write16_sregs (a : Linear) (v : Word) : (write16 a v s).sregs = s.sregs := by simp [write16]
@[simp] theorem write16_ip (a : Linear) (v : Word) : (write16 a v s).ip = s.ip := by simp [write16]
@[simp] theorem write16_flags (a : Linear) (v : Word) : (write16 a v s).flags = s.flags := by simp [write16]
@[simp] theorem write16_segOverride (a : Linear) (v : Word) : (write16 a v s).segOverride = s.segOverride := by simp [write16]
@[simp] theorem write16_rep (a : Linear) (v : Word) : (write16 a v s).rep = s.rep := by simp [write16]
@[simp] theorem write16_instrIP (a : Linear) (v : Word) : (write16 a v s).instrIP = s.instrIP := by simp [write16]
@[simp] theorem write16_run (a : Linear) (v : Word) : (write16 a v s).run = s.run := by simp [write16]
@[simp] theorem write16_readonly (a : Linear) (v : Word) : (write16 a v s).readonly = s.readonly := by simp [write16]
@[simp] theorem write16_shadow (a : Linear) (v : Word) : (write16 a v s).shadow = s.shadow := by simp [write16]
@[simp] theorem write16_pic (a : Linear) (v : Word) : (write16 a v s).pic = s.pic := by simp [write16]
@[simp] theorem write16_disk (a : Linear) (v : Word) : (write16 a v s).disk = s.disk := by simp [write16]
@[simp] theorem write16_hostRunning (a : Linear) (v : Word) : (write16 a v s).hostRunning = s.hostRunning := by simp [write16]
@[simp] theorem write16_hardReset (a : Linear) (v : Word) : (write16 a v s).hardReset = s.hardReset := by simp [write16]
@[simp] theorem write16_bootDrive (a : Linear) (v : Word) : (write16 a v s).bootDrive = s.bootDrive := by simp [write16]
@[simp] theorem write16_batch (a : Linear) (v : Word) : (write16 a v s).batch = s.batch := by simp [write16]
@[simp] theorem write16_events (a : Linear) (v : Word) : (write16 a v s).events = s.events := by simp [write16]
@[simp] theorem write16_params (a : Linear) (v : Word) : (write16 a v s).params = s.params := by simp [write16]
@[simp] theorem write16_draws (a : Linear) (v : Word) : (write16 a v s).draws = s.draws := by simp [write16]

/-! `push16` changes `regs`, `ram`, `video`. -/

@[simp] theorem push16_sregs (v : Word) : (push16 v s).sregs = s.sregs := by simp [push16]
@[simp] theorem push16_ip (v : Word) : (push16 v s).ip = s.ip := by simp [push16]
@[simp] theorem push16_flags (v : Word) : (push16 v s).flags = s.flags := by simp [push16]
@[simp] theorem push16_segOverride (v : Word) : (push16 v s).segOverride = s.segOverride := by simp [push16]
@[simp] theorem push16_rep (v : Word) : (push16 v s).rep = s.rep := by simp [push16]
@[simp] theorem push16_instrIP (v : Word) : (push16 v s).instrIP = s.instrIP := by simp [push16]
@[simp] theorem push16_run (v : Word) : (push16 v s).run = s.run := by simp [push16]
@[simp] theorem push16_readonly (v : Word) : (push16 v s).readonly = s.readonly := by simp [push16]
@[simp] theorem push16_shadow (v : Word) : (push16 v s).shadow = s.shadow := by simp [push16]
@[simp] theorem push16_pic (v : Word) : (push16 v s).pic = s.pic := by simp [push16]
@[simp] theorem push16_disk (v : Word) : (push16 v s).disk = s.disk := by simp [push16]
@[simp] theorem push16_hostRunning (v : Word) : (push16 v s).hostRunning = s.hostRunning := by simp [push16]
@[simp] theorem push16_hardReset (v : Word) : (push16 v s).hardReset = s.hardReset := by simp [push16]
@[simp] theorem push16_bootDrive (v : Word) : (push16 v s).bootDrive = s.bootDrive := by simp [push16]
@[simp] theorem push16_batch (v : Word) : (push16 v s).batch = s.batch := by simp [push16]
@[simp] theorem push16_events (v : Word) : (push16 v s).events = s.events := by simp [push16]
@[simp] theorem push16_params (v : Word) : (push16 v s).params = s.params := by simp [push16]
@[simp] theorem push16_draws (v : Word) : (push16 v s).draws = s.draws := by simp [push16]

/-! `pop16` changes `regs`, `video`. -/

@[simp] theorem pop16_sregs : (pop16 s).2.sregs = s.sregs := by simp [pop16, read16, read8]
@[simp] theorem pop16_ip : (pop16 s).2.ip = s.ip := by simp [pop16, read16, read8]
@[simp] theorem pop16_flags : (pop16 s).2.flags = s.flags := by simp [pop16, read16, read8]
@[simp] theorem pop16_segOverride : (pop16 s).2.segOverride = s.segOverride := by simp [pop16, read16, read8]
@[simp] theorem pop16_rep : (pop16 s).2.rep = s.rep := by simp [pop16, read16, read8]
@[simp] theorem pop16_instrIP : (pop16 s).2.instrIP = s.instrIP := by simp [pop16, read16, read8]
@[simp] theorem pop16_run : (pop16 s).2.run = s.run := by simp [pop16, read16, read8]
@[simp] theorem pop16_ram : (pop16 s).2.ram = s.ram := by simp [pop16, read16, read8]
@[simp] theorem pop16_readonly : (pop16 s).2.readonly = s.readonly := by simp [pop16, read16, read8]
@[simp] theorem pop16_shadow : (pop16 s).2.shadow = s.shadow := by simp [pop16, read16, read8]
@[simp] theorem pop16_pic : (pop16 s).2.pic = s.pic := by simp [pop16, read16, read8]
@[simp] theorem pop16_disk : (pop16 s).2.disk = s.disk := by simp [pop16, read16, read8]
@[simp] theorem pop16_hostRunning : (pop16 s).2.hostRunning = s.hostRunning := by simp [pop16, read16, read8]
@[simp] theorem pop16_hardReset : (pop16 s).2.hardReset = s.hardReset := by simp [pop16, read16, read8]
@[simp] theorem pop16_bootDrive : (pop16 s).2.bootDrive = s.bootDrive := by simp [pop16, read16, read8]
@[simp] theorem pop16_batch : (pop16 s).2.batch = s.batch := by simp [pop16, read16, read8]
@[simp] theorem pop16_events : (pop16 s).2.events = s.events := by simp [pop16, read16, read8]
@[simp] theorem pop16_params : (pop16 s).2.params = s.params := by simp [pop16, read16, read8]
@[simp] theorem pop16_draws : (pop16 s).2.draws = s.draws := by simp [pop16, read16, read8]

/-! `draw8` changes `draws`. -/

@[simp] theorem draw8_regs : (draw8 s).2.regs = s.regs := rfl
@[simp] theorem draw8_sregs : (draw8 s).2.sregs = s.sregs := rfl
@[simp] theorem draw8_ip : (draw8 s).2.ip = s.ip := rfl
@[simp] theorem draw8_flags : (draw8 s).2.flags = s.flags := rfl
@[simp] theorem draw8_segOverride : (draw8 s).2.segOverride = s.segOverride := rfl
@[simp] theorem draw8_rep : (draw8 s).2.rep = s.rep := rfl
@[simp] theorem draw8_instrIP : (draw8 s).2.instrIP = s.instrIP := rfl
@[simp] theorem draw8_run : (draw8 s).2.run = s.run := rfl
@[simp] theorem draw8_ram : (draw8 s).2.ram = s.ram := rfl
@[simp] theorem draw8_readonly : (draw8 s).2.readonly = s.readonly := rfl
@[simp] theorem draw8_shadow : (draw8 s).2.shadow = s.shadow := rfl
@[simp] theorem draw8_pic : (draw8 s).2.pic = s.pic := rfl
@[simp] theorem draw8_disk : (draw8 s).2.disk = s.disk := rfl
@[simp] theorem draw8_video : (draw8 s).2.video = s.video := rfl
@[simp] theorem draw8_hostRunning : (draw8 s).2.hostRunning = s.hostRunning := rfl
@[simp] theorem draw8_hardReset : (draw8 s).2.hardReset = s.hardReset := rfl
@[simp] theorem draw8_bootDrive : (draw8 s).2.bootDrive = s.bootDrive := rfl
@[simp] theorem draw8_batch : (draw8 s).2.batch = s.batch := rfl
@[simp] theorem draw8_events : (draw8 s).2.events = s.events := rfl
@[simp] theorem draw8_params : (draw8 s).2.params = s.params := rfl

/-! `shadowSet` changes `shadow`. -/

@[simp] theorem shadowSet_regs (p : Word) (v : Byte) : (shadowSet p v s).regs = s.regs := by simp [shadowSet]
@[simp] theorem shadowSet_sregs (p : Word) (v : Byte) : (shadowSet p v s).sregs = s.sregs := by simp [shadowSet]
@[simp] theorem shadowSet_ip (p : Word) (v : Byte) : (shadowSet p v s).ip = s.ip := by simp [shadowSet]
@[simp] theorem shadowSet_flags (p : Word) (v : Byte) : (shadowSet p v s).flags = s.flags := by simp [shadowSet]
@[simp] theorem shadowSet_segOverride (p : Word) (v : Byte) : (shadowSet p v s).segOverride = s.segOverride := by simp [shadowSet]
@[simp] theorem shadowSet_rep (p : Word) (v : Byte) : (shadowSet p v s).rep = s.rep := by simp [shadowSet]
@[simp] theorem shadowSet_instrIP (p : Word) (v : Byte) : (shadowSet p v s).instrIP = s.instrIP := by simp [shadowSet]
@[simp] theorem shadowSet_run (p : Word) (v : Byte) : (shadowSet p v s).run = s.run := by simp [shadowSet]
@[simp] theorem shadowSet_ram (p : Word) (v : Byte) : (shadowSet p v s).ram = s.ram := by simp [shadowSet]
@[simp] theorem shadowSet_readonly (p : Word) (v : Byte) : (shadowSet p v s).readonly = s.readonly := by simp [shadowSet]
@[simp] theorem shadowSet_pic (p : Word) (v : Byte) : (shadowSet p v s).pic = s.pic := by simp [shadowSet]
@[simp] theorem shadowSet_disk (p : Word) (v : Byte) : (shadowSet p v s).disk = s.disk := by simp [shadowSet]
@[simp] theorem shadowSet_video (p : Word) (v : Byte) : (shadowSet p v s).video = s.video := by simp [shadowSet]
@[simp] theorem shadowSet_hostRunning (p : Word) (v : Byte) : (shadowSet p v s).hostRunning = s.hostRunning := by simp [shadowSet]
@[simp] theorem shadowSet_hardReset (p : Word) (v : Byte) : (shadowSet p v s).hardReset = s.hardReset := by simp [shadowSet]
@[simp] theorem shadowSet_bootDrive (p : Word) (v : Byte) : (shadowSet p v s).bootDrive = s.bootDrive := by simp [shadowSet]
@[simp] theorem shadowSet_batch (p : Word) (v : Byte) : (shadowSet p v s).batch = s.batch := by simp [shadowSet]
@[simp] theorem shadowSet_events (p : Word) (v : Byte) : (shadowSet p v s).events = s.events := by simp [shadowSet]
@[simp] theorem shadowSet_params (p : Word) (v : Byte) : (shadowSet p v s).params = s.params := by simp [shadowSet]
@[simp] theorem shadowSet_draws (p : Word) (v : Byte) : (shadowSet p v s).draws = s.draws := by simp [shadowSet]

/-! `portRead8` changes `video`, `draws`. -/

@[simp] theorem portRead8_regs (p : Word) : (portRead8 p s).2.regs = s.regs := by unfold portRead8 statusRead draw8; split <;> (try split) <;> rfl
@[simp] theorem portRead8_sregs (p : Word) : (portRead8 p s).2.sregs = s.sregs := by unfold portRead8 statusRead draw8; split <;> (try split) <;> rfl
@[simp] theorem portRead8_ip (p : Word) : (portRead8 p s).2.ip = s.ip := by unfold portRead8 statusRead draw8; split <;> (try split) <;> rfl
@[simp] theorem portRead8_flags (p : Word) : (portRead8 p s).2.flags = s.flags := by unfold portRead8 statusRead draw8; split <;> (try split) <;> rfl
@[simp] theorem portRead8_segOverride (p : Word) : (portRead8 p s).2.segOverride = s.segOverride := by unfold portRead8 statusRead draw8; split <;> (try split) <;> rfl
@[simp] theorem portRead8_rep (p : Word) : (portRead8 p s).2.rep = s.rep := by unfold portRead8 statusRead draw8; split <;> (try split) <;> rfl
@[simp] theorem portRead8_instrIP (p : Word) : (portRead8 p s).2.instrIP = s.instrIP := by unfold portRead8 statusRead draw8; split <;> (try split) <;> rfl
@[simp] theorem portRead8_run (p : Word) : (portRead8 p s).2.run = s.run := by unfold portRead8 statusRead draw8; split <;> (try split) <;> rfl
@[simp] theorem portRead8_ram (p : Word) : (portRead8 p s).2.ram = s.ram := by unfold portRead8 statusRead draw8; split <;> (try split) <;> rfl
@[simp] theorem portRead8_readonly (p : Word) : (portRead8 p s).2.readonly = s.readonly := by unfold portRead8 statusRead draw8; split <;> (try split) <;> rfl
@[simp] theorem portRead8_shadow (p : Word) : (portRead8 p s).2.shadow = s.shadow := by unfold portRead8 statusRead draw8; split <;> (try split) <;> rfl
@[simp] theorem portRead8_pic (p : Word) : (portRead8 p s).2.pic = s.pic := by unfold portRead8 statusRead draw8; split <;> (try split) <;> rfl
@[simp] theorem portRead8_disk (p : Word) : (portRead8 p s).2.disk = s.disk := by unfold portRead8 statusRead draw8; split <;> (try split) <;> rfl
@[simp] theorem portRead8_hostRunning (p : Word) : (portRead8 p s).2.hostRunning = s.hostRunning := by unfold portRead8 statusRead draw8; split <;> (try split) <;> rfl
@[simp] theorem portRead8_hardReset (p : Word) : (portRead8 p s).2.hardReset = s.hardReset := by unfold portRead8 statusRead draw8; split <;> (try split) <;> rfl
@[simp] theorem portRead8_bootDrive (p : Word) : (portRead8 p s).2.bootDrive = s.bootDrive := by unfold portRead8 statusRead draw8; split <;> (try split) <;> rfl
@[simp] theorem portRead8_batch (p : Word) : (portRead8 p s).2.batch = s.batch := by unfold portRead8 statusRead draw8; split <;> (try split) <;> rfl
@[simp] theorem portRead8_events (p : Word) : (portRead8 p s).2.events = s.events := by unfold portRead8 statusRead draw8; split <;> (try split) <;> rfl
@[simp] theorem portRead8_params (p : Word) : (portRead8 p s).2.params = s.params := by unfold portRead8 statusRead draw8; split <;> (try split) <;> rfl

/-! `portWrite8` changes `shadow`, `pic`, `video`. -/

@[simp] theorem portWrite8_regs (p : Word) (v : Byte) : (portWrite8 p v s).regs = s.regs := by unfold portWrite8; split <;> rfl
@[simp] theorem portWrite8_sregs (p : Word) (v : Byte) : (portWrite8 p v s).sregs = s.sregs := by unfold portWrite8; split <;> rfl
@[simp] theorem portWrite8_ip (p : Word) (v : Byte) : (portWrite8 p v s).ip = s.ip := by unfold portWrite8; split <;> rfl
@[simp] theorem portWrite8_flags (p : Word) (v : Byte) : (portWrite8 p v s).flags = s.flags := by unfold portWrite8; split <;> rfl
@[simp] theorem portWrite8_segOverride (p : Word) (v : Byte) : (portWrite8 p v s).segOverride = s.segOverride := by unfold portWrite8; split <;> rfl
@[simp] theorem portWrite8_rep (p : Word) (v : Byte) : (portWrite8 p v s).rep = s.rep := by unfold portWrite8; split <;> rfl
@[simp] theorem portWrite8_instrIP (p : Word) (v : Byte) : (portWrite8 p v s).instrIP = s.instrIP := by unfold portWrite8; split <;> rfl
@[simp] theorem portWrite8_run (p : Word) (v : Byte) : (portWrite8 p v s).run = s.run := by unfold portWrite8; split <;> rfl
@[simp] theorem portWrite8_ram (p : Word) (v : Byte) : (portWrite8 p v s).ram = s.ram := by unfold portWrite8; split <;> rfl
@[simp] theorem portWrite8_readonly (p : Word) (v : Byte) : (portWrite8 p v s).readonly = s.readonly := by unfold portWrite8; split <;> rfl
@[simp] theorem portWrite8_disk (p : Word) (v : Byte) : (portWrite8 p v s).disk = s.disk := by unfold portWrite8; split <;> rfl
@[simp] theorem portWrite8_hostRunning (p : Word) (v : Byte) : (portWrite8 p v s).hostRunning = s.hostRunning := by unfold portWrite8; split <;> rfl
@[simp] theorem portWrite8_hardReset (p : Word) (v : Byte) : (portWrite8 p v s).hardReset = s.hardReset := by unfold portWrite8; split <;> rfl
@[simp] theorem portWrite8_bootDrive (p : Word) (v : Byte) : (portWrite8 p v s).bootDrive = s.bootDrive := by unfold portWrite8; split <;> rfl
@[simp] theorem portWrite8_batch (p : Word) (v : Byte) : (portWrite8 p v s).batch = s.batch := by unfold portWrite8; split <;> rfl
@[simp] theorem portWrite8_events (p : Word) (v : Byte) : (portWrite8 p v s).events = s.events := by unfold portWrite8; split <;> rfl
@[simp] theorem portWrite8_params (p : Word) (v : Byte) : (portWrite8 p v s).params = s.params := by unfold portWrite8; split <;> rfl
@[simp] theorem portWrite8_draws (p : Word) (v : Byte) : (portWrite8 p v s).draws = s.draws := by unfold portWrite8; split <;> rfl

/-! `raiseFatal` changes `run`. -/

@[simp] theorem raiseFatal_regs : (raiseFatal s).regs = s.regs := by simp [raiseFatal]
@[simp] theorem raiseFatal_sregs : (raiseFatal s).sregs = s.sregs := by simp [raiseFatal]
@[simp] theorem raiseFatal_ip : (raiseFatal s).ip = s.ip := by simp [raiseFatal]
@[simp] theorem raiseFatal_flags : (raiseFatal s).flags = s.flags := by simp [raiseFatal]
@[simp] theorem raiseFatal_segOverride : (raiseFatal s).segOverride = s.segOverride := by simp [raiseFatal]
@[simp] theorem raiseFatal_rep : (raiseFatal s).rep = s.rep := by simp [raiseFatal]
@[simp] theorem raiseFatal_instrIP : (raiseFatal s).instrIP = s.instrIP := by simp [raiseFatal]
@[simp] theorem raiseFatal_ram : (raiseFatal s).ram = s.ram := by simp [raiseFatal]
@[simp] theorem raiseFatal_readonly : (raiseFatal s).readonly = s.readonly := by simp [raiseFatal]
@[simp] theorem raiseFatal_shadow : (raiseFatal s).shadow = s.shadow := by simp [raiseFatal]
@[simp] theorem raiseFatal_pic : (raiseFatal s).pic = s.pic := by simp [raiseFatal]
@[simp] theorem raiseFatal_disk : (raiseFatal s).disk = s.disk := by simp [raiseFatal]
@[simp] theorem raiseFatal_video : (raiseFatal s).video = s.video := by simp [raiseFatal]
@[simp] theorem raiseFatal_hostRunning : (raiseFatal s).hostRunning = s.hostRunning := by simp [raiseFatal]
@[simp] theorem raiseFatal_hardReset : (raiseFatal s).hardReset = s.hardReset := by simp [raiseFatal]
@[simp] theorem raiseFatal_bootDrive : (raiseFatal s).bootDrive = s.bootDrive := by simp [raiseFatal]
@[simp] theorem raiseFatal_batch : (raiseFatal s).batch = s.batch := by simp [raiseFatal]
@[simp] theorem raiseFatal_events : (raiseFatal s).events = s.events := by simp [raiseFatal]
@[simp] theorem raiseFatal_params : (raiseFatal s).params = s.params := by simp [raiseFatal]
@[simp] theorem raiseFatal_draws : (raiseFatal s).draws = s.draws := by simp [raiseFatal]

/-! `jumpRel` changes `ip`. -/

@[simp] theorem jumpRel_regs (rel : Byte) : (jumpRel rel s).regs = s.regs := by simp [jumpRel]
@[simp] theorem jumpRel_sregs (rel : Byte) : (jumpRel rel s).sregs = s.sregs := by simp [jumpRel]
@[simp] theorem jumpRel_flags (rel : Byte) : (jumpRel rel s).flags = s.flags := by simp [jumpRel]
@[simp] theorem jumpRel_segOverride (rel : Byte) : (jumpRel rel s).segOverride = s.segOverride := by simp [jumpRel]
@[simp] theorem jumpRel_rep (rel : Byte) : (jumpRel rel s).rep = s.rep := by simp [jumpRel]
@[simp] theorem jumpRel_instrIP (rel : Byte) : (jumpRel rel s).instrIP = s.instrIP := by simp [jumpRel]
@[simp] theorem jumpRel_run (rel : Byte) : (jumpRel rel s).run = s.run := by simp [jumpRel]
@[simp] theorem jumpRel_ram (rel : Byte) : (jumpRel rel s).ram = s.ram := by simp [jumpRel]
@[simp] theorem jumpRel_readonly (rel : Byte) : (jumpRel rel s).readonly = s.readonly := by simp [jumpRel]
@[simp] theorem jumpRel_shadow (rel : Byte) : (jumpRel rel s).shadow = s.shadow := by simp [jumpRel]
@[simp] theorem jumpRel_pic (rel : Byte) : (jumpRel rel s).pic = s.pic := by simp [jumpRel]
@[simp] theorem jumpRel_disk (rel : Byte) : (jumpRel rel s).disk = s.disk := by simp [jumpRel]
@[simp] theorem jumpRel_video (rel : Byte) : (jumpRel rel s).video = s.video := by simp [jumpRel]
@[simp] theorem jumpRel_hostRunning (rel : Byte) : (jumpRel rel s).hostRunning = s.hostRunning := by simp [jumpRel]
@[simp] theorem jumpRel_hardReset (rel : Byte) : (jumpRel rel s).hardReset = s.hardReset := by simp [jumpRel]
@[simp] theorem jumpRel_bootDrive (rel : Byte) : (jumpRel rel s).bootDrive = s.bootDrive := by simp [jumpRel]
@[simp] theorem jumpRel_batch (rel : Byte) : (jumpRel rel s).batch = s.batch := by simp [jumpRel]
@[simp] theorem jumpRel_events (rel : Byte) : (jumpRel rel s).events = s.events := by simp [jumpRel]
@[simp] theorem jumpRel_params (rel : Byte) : (jumpRel rel s).params = s.params := by simp [jumpRel]
@[simp] theorem jumpRel_draws (rel : Byte) : (jumpRel rel s).draws = s.draws := by simp [jumpRel]

/-! `advanceSI` changes `regs`. -/

@[simp] theorem advanceSI_sregs (n : Word) : (advanceSI n s).sregs = s.sregs := by simp [advanceSI]
@[simp] theorem advanceSI_ip (n : Word) : (advanceSI n s).ip = s.ip := by simp [advanceSI]
@[simp] theorem advanceSI_flags (n : Word) : (advanceSI n s).flags = s.flags := by simp [advanceSI]
@[simp] theorem advanceSI_segOverride (n : Word) : (advanceSI n s).segOverride = s.segOverride := by simp [advanceSI]
@[simp] theorem advanceSI_rep (n : Word) : (advanceSI n s).rep = s.rep := by simp [advanceSI]
@[simp] theorem advanceSI_instrIP (n : Word) : (advanceSI n s).instrIP = s.instrIP := by simp [advanceSI]
@[simp] theorem advanceSI_run (n : Word) : (advanceSI n s).run = s.run := by simp [advanceSI]
@[simp] theorem advanceSI_ram (n : Word) : (advanceSI n s).ram = s.ram := by simp [advanceSI]
@[simp] theorem advanceSI_readonly (n : Word) : (advanceSI n s).readonly = s.readonly := by simp [advanceSI]
@[simp] theorem advanceSI_shadow (n : Word) : (advanceSI n s).shadow = s.shadow := by simp [advanceSI]
@[simp] theorem advanceSI_pic (n : Word) : (advanceSI n s).pic = s.pic := by simp [advanceSI]
@[simp] theorem advanceSI_disk (n : Word) : (advanceSI n s).disk = s.disk := by simp [advanceSI]
@[simp] theorem advanceSI_video (n : Word) : (advanceSI n s).video = s.video := by simp [advanceSI]
@[simp] theorem advanceSI_hostRunning (n : Word) : (advanceSI n s).hostRunning = s.hostRunning := by simp [advanceSI]
@[simp] theorem advanceSI_hardReset (n : Word) : (advanceSI n s).hardReset = s.hardReset := by simp [advanceSI]
@[simp] theorem advanceSI_bootDrive (n : Word) : (advanceSI n s).bootDrive = s.bootDrive := by simp [advanceSI]
@[simp] theorem advanceSI_batch (n : Word) : (advanceSI n s).batch = s.batch := by simp [advanceSI]
@[simp] theorem advanceSI_events (n : Word) : (advanceSI n s).events = s.events := by simp [advanceSI]
@[simp] theorem advanceSI_params (n : Word) : (advanceSI n s).params = s.params := by simp [advanceSI]
@[simp] theorem advanceSI_draws (n : Word) : (advanceSI n s).draws = s.draws := by simp [advanceSI]

/-! `advanceDI` changes `regs`. -/

@[simp] theorem advanceDI_sregs (n : Word) : (advanceDI n s).sregs = s.sregs := by simp [advanceDI]
@[simp] theorem advanceDI_ip (n : Word) : (advanceDI n s).ip = s.ip := by simp [advanceDI]
@[simp] theorem advanceDI_flags (n : Word) : (advanceDI n s).flags = s.flags := by simp [advanceDI]
@[simp] theorem advanceDI_segOverride (n : Word) : (advanceDI n s).segOverride = s.segOverride := by simp [advanceDI]
@[simp] theorem advanceDI_rep (n : Word) : (advanceDI n s).rep = s.rep := by simp [advanceDI]
@[simp] theorem advanceDI_instrIP (n : Word) : (advanceDI n s).instrIP = s.instrIP := by simp [advanceDI]
@[simp] theorem advanceDI_run (n : Word) : (advanceDI n s).run = s.run := by simp [advanceDI]
@[simp] theorem advanceDI_ram (n : Word) : (advanceDI n s).ram = s.ram := by simp [advanceDI]
@[simp] theorem advanceDI_readonly (n : Word) : (advanceDI n s).readonly = s.readonly := by simp [advanceDI]
@[simp] theorem advanceDI_shadow (n : Word) : (advanceDI n s).shadow = s.shadow := by simp [advanceDI]
@[simp] theorem advanceDI_pic (n : Word) : (advanceDI n s).pic = s.pic := by simp [advanceDI]
@[simp] theorem advanceDI_disk (n : Word) : (advanceDI n s).disk = s.disk := by simp [advanceDI]
@[simp] theorem advanceDI_video (n : Word) : (advanceDI n s).video = s.video := by simp [advanceDI]
@[simp] theorem advanceDI_hostRunning (n : Word) : (advanceDI n s).hostRunning = s.hostRunning := by simp [advanceDI]
@[simp] theorem advanceDI_hardReset (n : Word) : (advanceDI n s).hardReset = s.hardReset := by simp [advanceDI]
@[simp] theorem advanceDI_bootDrive (n : Word) : (advanceDI n s).bootDrive = s.bootDrive := by simp [advanceDI]
@[simp] theorem advanceDI_batch (n : Word) : (advanceDI n s).batch = s.batch := by simp [advanceDI]
@[simp] theorem advanceDI_events (n : Word) : (advanceDI n s).events = s.events := by simp [advanceDI]
@[simp] theorem advanceDI_params (n : Word) : (advanceDI n s).params = s.params := by simp [advanceDI]
@[simp] theorem advanceDI_draws (n : Word) : (advanceDI n s).draws = s.draws := by simp [advanceDI]

end Sys2Proof.Machine
end

