-- ==== Sys2Proof/Laws/Tables.lean ====
section
/-! SUPPORT. The laws of the sparse tables: reading what was written, and that an update keeps the canonical
form. -/

namespace Sys2Proof.Machine

variable {α : Type}

@[simp] theorem Table.get_nil (d : α) (k : Nat) : Table.get d ([] : Table α) k = d := rfl

theorem Table.get_cons (d : α) (j : Nat) (v : α) (t : Table α) (k : Nat) :
    Table.get d ((j, v) :: t) k = if j = k then v else Table.get d t k := rfl

theorem Table.remove_cons (k j : Nat) (v : α) (t : Table α) :
    Table.remove k ((j, v) :: t) = if j = k then Table.remove k t else (j, v) :: Table.remove k t := by
  by_cases h : j = k <;> simp [Table.remove, h]

theorem Table.get_remove (d : α) (t : Table α) (k j : Nat) :
    Table.get d (t.remove k) j = if j = k then d else Table.get d t j := by
  induction t with
  | nil => simp [Table.remove]
  | cons e t ih =>
    obtain ⟨i, v⟩ := e
    rw [Table.remove_cons, Table.get_cons]
    by_cases hi : i = k
    · rw [if_pos hi, ih]
      by_cases hj : j = k
      · simp [hj]
      · simp [hj, show i ≠ j by omega]
    · rw [if_neg hi, Table.get_cons, ih]
      by_cases hj : i = j
      · simp [hj, show j ≠ k by omega]
      · simp [hj]

theorem Table.get_put (d : α) (t : Table α) (k j : Nat) (v : α) :
    Table.get d (t.put k v) j = if j = k then v else Table.get d t j := by
  induction t with
  | nil => simp only [Table.put, Table.get_cons, Table.get_nil, eq_comm]
  | cons e t ih =>
    obtain ⟨i, w⟩ := e
    have hcomm : (k = j) = (j = k) := propext eq_comm
    simp only [Table.put]
    split
    · simp only [Table.get_cons, hcomm]
    · split
      · rename_i hki
        subst hki
        simp only [Table.get_cons, hcomm]
        by_cases hj : j = k
        · simp [hj]
        · simp [hj]
      · rename_i hki
        simp only [Table.get_cons, ih]
        by_cases hij : i = j
        · simp [hij, show j ≠ k by omega]
        · simp [hij]

variable [DecidableEq α]

/-- Reading after a write. -/
theorem Table.get_set (d : α) (t : Table α) (k j : Nat) (v : α) :
    Table.get d (t.set d k v) j = if j = k then v else Table.get d t j := by
  unfold Table.set
  split
  · rename_i h; rw [Table.get_remove, h]
  · exact Table.get_put ..

@[simp] theorem Table.get_set_same (d : α) (t : Table α) (k : Nat) (v : α) :
    Table.get d (t.set d k v) k = v := by simp [Table.get_set]

theorem Table.get_set_other (d : α) (t : Table α) {k j : Nat} (v : α) (h : j ≠ k) :
    Table.get d (t.set d k v) j = Table.get d t j := by simp [Table.get_set, h]

/-! ## The canonical form -/

/-- The canonical form as two facts: rising keys, and entries in range that are not the default. -/
theorem Table.wf_iff (d : α) (bound : Nat) (t : Table α) :
    t.wf d bound = true ↔ t.Pairwise (fun a b => a.1 < b.1) ∧ ∀ e ∈ t, e.1 < bound ∧ e.2 ≠ d := by
  induction t with
  | nil => simp [Table.wf]
  | cons e t ih =>
    obtain ⟨k, v⟩ := e
    cases t with
    | nil => simp [Table.wf]
    | cons e' t =>
      obtain ⟨j, w⟩ := e'
      simp only [Table.wf, Bool.and_eq_true, decide_eq_true_eq, ih, List.pairwise_cons, List.mem_cons,
        forall_eq_or_imp]
      constructor
      · rintro ⟨⟨hkj, hv⟩, ⟨hj, hp⟩, ⟨hjb, hw⟩, hall⟩
        exact ⟨⟨⟨hkj, fun e he => lt_trans hkj (hj e he)⟩, hj, hp⟩, ⟨lt_trans hkj hjb, hv⟩, ⟨hjb, hw⟩, hall⟩
      · rintro ⟨⟨⟨hkj, -⟩, hj, hp⟩, ⟨-, hv⟩, hjw, hall⟩
        exact ⟨⟨hkj, hv⟩, ⟨hj, hp⟩, hjw, hall⟩

omit [DecidableEq α] in
theorem Table.mem_put {t : Table α} {k : Nat} {v : α} {e : Nat × α} (h : e ∈ t.put k v) : e = (k, v) ∨ e ∈ t := by
  induction t with
  | nil => simpa [Table.put] using h
  | cons a t ih =>
    obtain ⟨j, w⟩ := a
    simp only [Table.put] at h
    split at h
    · simpa using h
    · split at h
      · rcases List.mem_cons.1 h with h | h
        · exact .inl h
        · exact .inr (List.mem_cons_of_mem _ h)
      · rcases List.mem_cons.1 h with h | h
        · exact .inr (h ▸ List.mem_cons_self)
        · exact (ih h).imp id (List.mem_cons_of_mem _)

omit [DecidableEq α] in
theorem Table.put_pairwise {t : Table α} (k : Nat) (v : α) (h : t.Pairwise (fun a b => a.1 < b.1)) :
    (t.put k v).Pairwise (fun a b => a.1 < b.1) := by
  induction t with
  | nil => simp [Table.put]
  | cons a t ih =>
    obtain ⟨j, w⟩ := a
    rw [List.pairwise_cons] at h
    simp only [Table.put]
    split
    · rename_i hkj
      refine List.pairwise_cons.2 ⟨fun e he => ?_, List.pairwise_cons.2 h⟩
      rcases List.mem_cons.1 he with rfl | he
      · exact hkj
      · exact lt_trans hkj (h.1 e he)
    · split
      · rename_i hkj
        exact List.pairwise_cons.2 ⟨fun e he => by simpa [hkj] using h.1 e he, h.2⟩
      · refine List.pairwise_cons.2 ⟨fun e he => ?_, ih h.2⟩
        rcases Table.mem_put he with rfl | he
        · dsimp only; omega
        · exact h.1 e he

/-- An update keeps the canonical form. -/
theorem Table.set_wf {d : α} {bound : Nat} {t : Table α} {k : Nat} (v : α) (hk : k < bound)
    (h : t.wf d bound = true) : (t.set d k v).wf d bound = true := by
  rw [Table.wf_iff] at h ⊢
  unfold Table.set
  split
  · exact ⟨h.1.filter _, fun e he => h.2 e (List.mem_filter.1 he).1⟩
  · refine ⟨Table.put_pairwise k v h.1, fun e he => ?_⟩
    rcases Table.mem_put he with rfl | he
    · exact ⟨hk, ‹_›⟩
    · exact h.2 e he

theorem Table.nil_wf (d : α) (bound : Nat) : Table.wf d bound ([] : Table α) = true := rfl

theorem Table.ofList_wf {d : α} {bound : Nat} {l : List (Nat × α)} (h : ∀ e ∈ l, e.1 < bound) :
    (Table.ofList d l).wf d bound = true := by
  suffices ∀ t : Table α, t.wf d bound = true →
      (l.foldl (fun t e => t.set d e.1 e.2) t).wf d bound = true from this [] rfl
  induction l with
  | nil => exact fun t ht => ht
  | cons e l ih =>
    intro t ht
    exact ih (fun x hx => h x (List.mem_cons_of_mem _ hx)) _ (Table.set_wf _ (h e List.mem_cons_self) ht)

/-- Equal readings of canonical tables are equal tables. -/
theorem Table.ext_of_wf {d : α} {bound : Nat} {t u : Table α} (ht : t.wf d bound = true) (hu : u.wf d bound = true)
    (h : ∀ k, Table.get d t k = Table.get d u k) : t = u := by
  rw [Table.wf_iff] at ht hu
  have none_below {t : Table α} {k : Nat} (hall : ∀ e ∈ t, k < e.1) : Table.get d t k = d := by
    induction t with
    | nil => rfl
    | cons e t ih =>
      rw [Table.get_cons, if_neg (by have := hall e List.mem_cons_self; omega)]
      exact ih fun x hx => hall x (List.mem_cons_of_mem _ hx)
  induction t generalizing u with
  | nil =>
    cases u with
    | nil => rfl
    | cons e u =>
      have := h e.1
      rw [Table.get_nil, Table.get_cons, if_pos rfl] at this
      exact absurd this.symm (hu.2 e List.mem_cons_self).2
  | cons e t ih =>
    obtain ⟨k, v⟩ := e
    cases u with
    | nil =>
      have := h k
      rw [Table.get_nil, Table.get_cons, if_pos rfl] at this
      exact absurd this (ht.2 _ List.mem_cons_self).2
    | cons e' u =>
      obtain ⟨j, w⟩ := e'
      have htp := List.pairwise_cons.1 ht.1
      have hup := List.pairwise_cons.1 hu.1
      have hkj : k = j := by
        rcases Nat.lt_trichotomy k j with hlt | heq | hgt
        · have := h k
          rw [Table.get_cons, if_pos rfl, none_below (k := k)] at this
          · exact absurd this (ht.2 _ List.mem_cons_self).2
          · intro x hx
            rcases List.mem_cons.1 hx with rfl | hx
            · exact hlt
            · exact lt_trans hlt (hup.1 x hx)
        · exact heq
        · have := h j
          rw [Table.get_cons d j w, if_pos rfl, none_below (k := j)] at this
          · exact absurd this.symm (hu.2 _ List.mem_cons_self).2
          · intro x hx
            rcases List.mem_cons.1 hx with rfl | hx
            · exact hgt
            · exact lt_trans hgt (htp.1 x hx)
      subst hkj
      have hvw : v = w := by simpa [Table.get_cons] using h k
      subst hvw
      rw [ih ⟨htp.2, fun e he => ht.2 e (List.mem_cons_of_mem _ he)⟩
        ⟨hup.2, fun e he => hu.2 e (List.mem_cons_of_mem _ he)⟩]
      intro i
      have hi := h i
      rw [Table.get_cons, Table.get_cons] at hi
      by_cases hik : k = i
      · subst hik
        rw [none_below (fun e he => htp.1 e he), none_below (fun e he => hup.1 e he)]
      · simpa [hik] using hi

/-! ## The sorted list of read-only addresses -/

theorem mem_sortedInsert {k j : Nat} {l : List Nat} : j ∈ sortedInsert k l ↔ j = k ∨ j ∈ l := by
  induction l with
  | nil => simp [sortedInsert]
  | cons i l ih =>
    simp only [sortedInsert]
    split
    · simp
    · split
      · rename_i h; subst h; simp
      · simp only [List.mem_cons, ih]; tauto

theorem sortedWf_iff (bound : Nat) (l : List Nat) :
    sortedWf bound l = true ↔ l.Pairwise (· < ·) ∧ ∀ k ∈ l, k < bound := by
  induction l with
  | nil => simp [sortedWf]
  | cons k l ih =>
    cases l with
    | nil => simp [sortedWf]
    | cons j l =>
      simp only [sortedWf, Bool.and_eq_true, decide_eq_true_eq, ih, List.pairwise_cons, List.mem_cons,
        forall_eq_or_imp]
      constructor
      · rintro ⟨hkj, ⟨hj, hp⟩, hjb, hall⟩
        exact ⟨⟨⟨hkj, fun e he => lt_trans hkj (hj e he)⟩, hj, hp⟩, lt_trans hkj hjb, hjb, hall⟩
      · rintro ⟨⟨⟨hkj, -⟩, hj, hp⟩, -, hjb, hall⟩
        exact ⟨hkj, ⟨hj, hp⟩, hjb, hall⟩

theorem sortedInsert_wf {bound k : Nat} {l : List Nat} (hk : k < bound) (h : sortedWf bound l = true) :
    sortedWf bound (sortedInsert k l) = true := by
  rw [sortedWf_iff] at h ⊢
  refine ⟨?_, fun j hj => (mem_sortedInsert.1 hj).elim (fun e => e ▸ hk) (h.2 j)⟩
  have hp := h.1
  clear h
  induction l with
  | nil => simp [sortedInsert]
  | cons i l ih =>
    rw [List.pairwise_cons] at hp
    simp only [sortedInsert]
    split
    · rename_i hki
      refine List.pairwise_cons.2 ⟨fun e he => ?_, List.pairwise_cons.2 hp⟩
      rcases List.mem_cons.1 he with rfl | he
      · exact hki
      · exact lt_trans hki (hp.1 e he)
    · split
      · exact List.pairwise_cons.2 hp
      · refine List.pairwise_cons.2 ⟨fun e he => ?_, ih hp.2⟩
        rcases mem_sortedInsert.1 he with rfl | he
        · omega
        · exact hp.1 e he

end Sys2Proof.Machine
end

