-- ==== Sys2Proof/Laws/Memory.lean ====
section
/-! SUPPORT. Registers, flags and memory: reading what was written, and what an access leaves unchanged. -/

namespace Sys2Proof.Machine

/-! ## Bytes of words -/

/-- A word made of two bytes has them as its halves. -/
theorem lowByte_append (h l : Byte) : lowByte (h ++ l) = l := by
  apply BitVec.eq_of_getLsbD_eq; intro i hi
  simp only [lowByte, BitVec.getLsbD_extractLsb', hi, decide_true, Bool.true_and, Nat.zero_add]
  exact (BitVec.getLsbD_append ..).trans (by simp [hi])

theorem highByte_append (h l : Byte) : highByte (h ++ l) = h := by
  apply BitVec.eq_of_getLsbD_eq; intro i hi
  simp only [highByte, BitVec.getLsbD_extractLsb', hi, decide_true, Bool.true_and]
  exact (BitVec.getLsbD_append ..).trans (by simp)
@[simp] theorem lowByte_withLowByte (w : Word) (b : Byte) : lowByte (withLowByte w b) = b := lowByte_append ..
@[simp] theorem highByte_withLowByte (w : Word) (b : Byte) : highByte (withLowByte w b) = highByte w :=
  highByte_append ..
@[simp] theorem lowByte_withHighByte (w : Word) (b : Byte) : lowByte (withHighByte w b) = lowByte w :=
  lowByte_append ..
@[simp] theorem highByte_withHighByte (w : Word) (b : Byte) : highByte (withHighByte w b) = b := highByte_append ..
theorem highByte_append_lowByte (w : Word) : highByte w ++ lowByte w = w := by
  apply BitVec.eq_of_getLsbD_eq; intro i hi
  simp only [highByte, lowByte, BitVec.getLsbD_append, BitVec.getLsbD_extractLsb']
  split
  · simp [*]
  · simp [show i - 8 < 8 by omega, show 8 + (i - 8) = i by omega]

/-! ## Registers -/

theorem Regs.get_set (r : Regs) (j k : Reg16) (v : Word) : (r.set j v).get k = if k = j then v else r.get k := by
  cases j <;> cases k <;> rfl

@[simp] theorem Regs.get_set_same (r : Regs) (k : Reg16) (v : Word) : (r.set k v).get k = v := by
  cases k <;> rfl

theorem Regs.get_set8 (r : Regs) (j : Reg8) (k : Reg16) (v : Byte) :
    (r.set8 j v).get k =
      if k = fullReg j then (if isHighHalf j then withHighByte (r.get k) v else withLowByte (r.get k) v)
      else r.get k := by
  unfold Regs.set8
  rw [Regs.get_set]
  split <;> simp_all

theorem Regs.get8_set8 (r : Regs) (j k : Reg8) (v : Byte) : (r.set8 j v).get8 k = if k = j then v else r.get8 k := by
  unfold Regs.get8
  rw [Regs.get_set8]
  cases j <;> cases k <;> simp [isHighHalf, fullReg]

theorem Sregs.get_set (r : Sregs) (j k : Sreg) (v : Word) : (r.set j v).get k = if k = j then v else r.get k := by
  cases j <;> cases k <;> rfl

theorem reg16_setReg16 (s : State) (j k : Reg16) (v : Word) :
    reg16 k (setReg16 j v s) = if k = j then v else reg16 k s := Regs.get_set ..

@[simp] theorem reg16_setReg16_same (s : State) (k : Reg16) (v : Word) : reg16 k (setReg16 k v s) = v := by
  simp [reg16_setReg16]

theorem reg16_setReg8 (s : State) (j : Reg8) (k : Reg16) (v : Byte) :
    reg16 k (setReg8 j v s) =
      if k = fullReg j then (if isHighHalf j then withHighByte (reg16 k s) v else withLowByte (reg16 k s) v)
      else reg16 k s := Regs.get_set8 ..

theorem reg8_setReg8 (s : State) (j k : Reg8) (v : Byte) :
    reg8 k (setReg8 j v s) = if k = j then v else reg8 k s := Regs.get8_set8 ..

@[simp] theorem reg8_setReg8_same (s : State) (k : Reg8) (v : Byte) : reg8 k (setReg8 k v s) = v := by
  simp [reg8_setReg8]

theorem reg8_setReg16 (s : State) (j : Reg16) (k : Reg8) (v : Word) :
    reg8 k (setReg16 j v s) =
      if fullReg k = j then (if isHighHalf k then highByte v else lowByte v) else reg8 k s := by
  simp only [reg8, setReg16, State.setRegs_regs, Regs.get8, Regs.get_set]
  by_cases h : fullReg k = j <;> simp [h]

theorem sreg_setSreg (s : State) (j k : Sreg) (v : Word) :
    sreg k (setSreg j v s) = if k = j then v else sreg k s := Sregs.get_set ..

/-- A general register depends on `regs` alone, a segment register on `sregs`, a flag on `flags`. -/
theorem reg16_congr {s t : State} (k : Reg16) (h : t.regs = s.regs) : reg16 k t = reg16 k s := by simp [reg16, h]
theorem reg8_congr {s t : State} (k : Reg8) (h : t.regs = s.regs) : reg8 k t = reg8 k s := by simp [reg8, h]
theorem sreg_congr {s t : State} (k : Sreg) (h : t.sregs = s.sregs) : sreg k t = sreg k s := by simp [sreg, h]
theorem flag_congr {s t : State} (k : Flag) (h : t.flags = s.flags) : flag k t = flag k s := by simp [flag, h]

/-! ## Flags -/

theorem Flags.get_set (f : Flags) (j k : Flag) (b : Bool) : (f.set j b).get k = if k = j then b else f.get k := by
  cases j <;> cases k <;> rfl

theorem flag_setFlag (s : State) (j k : Flag) (b : Bool) :
    flag k (setFlag j b s) = if k = j then b else flag k s := Flags.get_set ..

theorem flag_drawFlag (s : State) (j k : Flag) :
    flag k (drawFlag j s) = if k = j then Config.drawBit s.draws else flag k s := flag_setFlag ..

/-- A flag that is not undefined stays. -/
theorem flag_undefine_other {k : Flag} {ks : List Flag} (s : State) (h : k ∉ ks) :
    flag k (undefine ks s) = flag k s := by
  induction ks generalizing s with
  | nil => rfl
  | cons j ks ih =>
    simp only [List.mem_cons, not_or] at h
    show flag k (undefine ks (drawFlag j s)) = flag k s
    rw [ih _ h.2, flag_drawFlag, if_neg h.1]

/-- What undefining flags draws. -/
theorem undefine_draws (ks : List Flag) (s : State) : (undefine ks s).draws = s.draws + ks.length := by
  induction ks generalizing s with
  | nil => rfl
  | cons j ks ih =>
    show (undefine ks (drawFlag j s)).draws = _
    rw [ih, List.length_cons]
    show s.draws + 1 + ks.length = _
    omega

/-! ## Registers, flags and bytes of an updated state -/

section
variable (s : State)

@[simp] theorem reg16_setSreg (k : Reg16) (j : Sreg) (v : Word) : reg16 k (setSreg j v s) = reg16 k s := reg16_congr k (by simp)
@[simp] theorem reg16_setFlag (k : Reg16) (j : Flag) (b : Bool) : reg16 k (setFlag j b s) = reg16 k s := reg16_congr k (by simp)
@[simp] theorem reg16_setFlagsWord (k : Reg16) (v : Word) : reg16 k (setFlagsWord v s) = reg16 k s := reg16_congr k (by simp)
@[simp] theorem reg16_addFlags (k : Reg16) {w : Nat} (a b : BitVec w) (c : Bool) : reg16 k (addFlags a b c s) = reg16 k s := reg16_congr k (by simp)
@[simp] theorem reg16_subFlags (k : Reg16) {w : Nat} (a b : BitVec w) (c : Bool) : reg16 k (subFlags a b c s) = reg16 k s := reg16_congr k (by simp)
@[simp] theorem reg16_szpFlags (k : Reg16) {w : Nat} (r : BitVec w) : reg16 k (szpFlags r s) = reg16 k s := reg16_congr k (by simp)
@[simp] theorem reg16_undefine (k : Reg16) (js : List Flag) : reg16 k (undefine js s) = reg16 k s := reg16_congr k (by simp)
@[simp] theorem reg16_logicFlags (k : Reg16) {w : Nat} (r : BitVec w) : reg16 k (logicFlags r s) = reg16 k s := reg16_congr k (by simp)
@[simp] theorem reg16_touch8 (k : Reg16) (a : Linear) : reg16 k (touch8 a s) = reg16 k s := reg16_congr k (by simp)
@[simp] theorem reg16_touch16 (k : Reg16) (a : Linear) : reg16 k (touch16 a s) = reg16 k s := reg16_congr k (by simp)
@[simp] theorem reg16_write8 (k : Reg16) (a : Linear) (v : Byte) : reg16 k (write8 a v s) = reg16 k s := reg16_congr k (by simp)
@[simp] theorem reg16_write16 (k : Reg16) (a : Linear) (v : Word) : reg16 k (write16 a v s) = reg16 k s := reg16_congr k (by simp)
@[simp] theorem reg16_raiseFatal (k : Reg16)  : reg16 k (raiseFatal s) = reg16 k s := reg16_congr k (by simp)
@[simp] theorem reg16_jumpRel (k : Reg16) (rel : Byte) : reg16 k (jumpRel rel s) = reg16 k s := reg16_congr k (by simp)
@[simp] theorem reg16_setSregs (k : Reg16) (v : Sregs) : reg16 k (s.setSregs v) = reg16 k s := reg16_congr k (by simp)
@[simp] theorem reg16_setIp (k : Reg16) (v : Word) : reg16 k (s.setIp v) = reg16 k s := reg16_congr k (by simp)
@[simp] theorem reg16_setFlags (k : Reg16) (v : Flags) : reg16 k (s.setFlags v) = reg16 k s := reg16_congr k (by simp)
@[simp] theorem reg16_setSegOverride (k : Reg16) (v : Option Sreg) : reg16 k (s.setSegOverride v) = reg16 k s := reg16_congr k (by simp)
@[simp] theorem reg16_setRep (k : Reg16) (v : Option RepPrefix) : reg16 k (s.setRep v) = reg16 k s := reg16_congr k (by simp)
@[simp] theorem reg16_setInstrIP (k : Reg16) (v : Word) : reg16 k (s.setInstrIP v) = reg16 k s := reg16_congr k (by simp)
@[simp] theorem reg16_setRun (k : Reg16) (v : Run) : reg16 k (s.setRun v) = reg16 k s := reg16_congr k (by simp)
@[simp] theorem reg16_setShadow (k : Reg16) (v : Table Byte) : reg16 k (s.setShadow v) = reg16 k s := reg16_congr k (by simp)
@[simp] theorem reg16_setPic (k : Reg16) (v : Pic) : reg16 k (s.setPic v) = reg16 k s := reg16_congr k (by simp)
@[simp] theorem reg16_setDisk (k : Reg16) (v : Disk) : reg16 k (s.setDisk v) = reg16 k s := reg16_congr k (by simp)
@[simp] theorem reg16_setHostRunning (k : Reg16) (v : Bool) : reg16 k (s.setHostRunning v) = reg16 k s := reg16_congr k (by simp)
@[simp] theorem reg16_setHardReset (k : Reg16) (v : Bool) : reg16 k (s.setHardReset v) = reg16 k s := reg16_congr k (by simp)
@[simp] theorem reg16_setBootDrive (k : Reg16) (v : Byte) : reg16 k (s.setBootDrive v) = reg16 k s := reg16_congr k (by simp)
@[simp] theorem reg16_setBatch (k : Reg16) (v : Option Nat) : reg16 k (s.setBatch v) = reg16 k s := reg16_congr k (by simp)
@[simp] theorem reg16_setEvents (k : Reg16) (v : List HostEvent) : reg16 k (s.setEvents v) = reg16 k s := reg16_congr k (by simp)
@[simp] theorem reg16_setDraws (k : Reg16) (v : Nat) : reg16 k (s.setDraws v) = reg16 k s := reg16_congr k (by simp)
@[simp] theorem reg16_setRam (k : Reg16) (v : Table Byte) : reg16 k (s.setRam v) = reg16 k s := reg16_congr k (by simp)
@[simp] theorem reg16_setReadonly (k : Reg16) (v : List Nat) : reg16 k (s.setReadonly v) = reg16 k s := reg16_congr k (by simp)
@[simp] theorem reg16_setVideo (k : Reg16) (v : Video) : reg16 k (s.setVideo v) = reg16 k s := reg16_congr k (by simp)
@[simp] theorem reg16_portRead8 (k : Reg16) (p : Word) : reg16 k (portRead8 p s).2 = reg16 k s := reg16_congr k (by simp)
@[simp] theorem reg16_portWrite8 (k : Reg16) (p : Word) (v : Byte) : reg16 k (portWrite8 p v s) = reg16 k s := reg16_congr k (by simp)
@[simp] theorem reg8_setSreg (k : Reg8) (j : Sreg) (v : Word) : reg8 k (setSreg j v s) = reg8 k s := reg8_congr k (by simp)
@[simp] theorem reg8_setFlag (k : Reg8) (j : Flag) (b : Bool) : reg8 k (setFlag j b s) = reg8 k s := reg8_congr k (by simp)
@[simp] theorem reg8_setFlagsWord (k : Reg8) (v : Word) : reg8 k (setFlagsWord v s) = reg8 k s := reg8_congr k (by simp)
@[simp] theorem reg8_addFlags (k : Reg8) {w : Nat} (a b : BitVec w) (c : Bool) : reg8 k (addFlags a b c s) = reg8 k s := reg8_congr k (by simp)
@[simp] theorem reg8_subFlags (k : Reg8) {w : Nat} (a b : BitVec w) (c : Bool) : reg8 k (subFlags a b c s) = reg8 k s := reg8_congr k (by simp)
@[simp] theorem reg8_szpFlags (k : Reg8) {w : Nat} (r : BitVec w) : reg8 k (szpFlags r s) = reg8 k s := reg8_congr k (by simp)
@[simp] theorem reg8_undefine (k : Reg8) (js : List Flag) : reg8 k (undefine js s) = reg8 k s := reg8_congr k (by simp)
@[simp] theorem reg8_logicFlags (k : Reg8) {w : Nat} (r : BitVec w) : reg8 k (logicFlags r s) = reg8 k s := reg8_congr k (by simp)
@[simp] theorem reg8_touch8 (k : Reg8) (a : Linear) : reg8 k (touch8 a s) = reg8 k s := reg8_congr k (by simp)
@[simp] theorem reg8_touch16 (k : Reg8) (a : Linear) : reg8 k (touch16 a s) = reg8 k s := reg8_congr k (by simp)
@[simp] theorem reg8_write8 (k : Reg8) (a : Linear) (v : Byte) : reg8 k (write8 a v s) = reg8 k s := reg8_congr k (by simp)
@[simp] theorem reg8_write16 (k : Reg8) (a : Linear) (v : Word) : reg8 k (write16 a v s) = reg8 k s := reg8_congr k (by simp)
@[simp] theorem reg8_raiseFatal (k : Reg8)  : reg8 k (raiseFatal s) = reg8 k s := reg8_congr k (by simp)
@[simp] theorem reg8_jumpRel (k : Reg8) (rel : Byte) : reg8 k (jumpRel rel s) = reg8 k s := reg8_congr k (by simp)
@[simp] theorem reg8_setSregs (k : Reg8) (v : Sregs) : reg8 k (s.setSregs v) = reg8 k s := reg8_congr k (by simp)
@[simp] theorem reg8_setIp (k : Reg8) (v : Word) : reg8 k (s.setIp v) = reg8 k s := reg8_congr k (by simp)
@[simp] theorem reg8_setFlags (k : Reg8) (v : Flags) : reg8 k (s.setFlags v) = reg8 k s := reg8_congr k (by simp)
@[simp] theorem reg8_setSegOverride (k : Reg8) (v : Option Sreg) : reg8 k (s.setSegOverride v) = reg8 k s := reg8_congr k (by simp)
@[simp] theorem reg8_setRep (k : Reg8) (v : Option RepPrefix) : reg8 k (s.setRep v) = reg8 k s := reg8_congr k (by simp)
@[simp] theorem reg8_setInstrIP (k : Reg8) (v : Word) : reg8 k (s.setInstrIP v) = reg8 k s := reg8_congr k (by simp)
@[simp] theorem reg8_setRun (k : Reg8) (v : Run) : reg8 k (s.setRun v) = reg8 k s := reg8_congr k (by simp)
@[simp] theorem reg8_setShadow (k : Reg8) (v : Table Byte) : reg8 k (s.setShadow v) = reg8 k s := reg8_congr k (by simp)
@[simp] theorem reg8_setPic (k : Reg8) (v : Pic) : reg8 k (s.setPic v) = reg8 k s := reg8_congr k (by simp)
@[simp] theorem reg8_setDisk (k : Reg8) (v : Disk) : reg8 k (s.setDisk v) = reg8 k s := reg8_congr k (by simp)
@[simp] theorem reg8_setHostRunning (k : Reg8) (v : Bool) : reg8 k (s.setHostRunning v) = reg8 k s := reg8_congr k (by simp)
@[simp] theorem reg8_setHardReset (k : Reg8) (v : Bool) : reg8 k (s.setHardReset v) = reg8 k s := reg8_congr k (by simp)
@[simp] theorem reg8_setBootDrive (k : Reg8) (v : Byte) : reg8 k (s.setBootDrive v) = reg8 k s := reg8_congr k (by simp)
@[simp] theorem reg8_setBatch (k : Reg8) (v : Option Nat) : reg8 k (s.setBatch v) = reg8 k s := reg8_congr k (by simp)
@[simp] theorem reg8_setEvents (k : Reg8) (v : List HostEvent) : reg8 k (s.setEvents v) = reg8 k s := reg8_congr k (by simp)
@[simp] theorem reg8_setDraws (k : Reg8) (v : Nat) : reg8 k (s.setDraws v) = reg8 k s := reg8_congr k (by simp)
@[simp] theorem reg8_setRam (k : Reg8) (v : Table Byte) : reg8 k (s.setRam v) = reg8 k s := reg8_congr k (by simp)
@[simp] theorem reg8_setReadonly (k : Reg8) (v : List Nat) : reg8 k (s.setReadonly v) = reg8 k s := reg8_congr k (by simp)
@[simp] theorem reg8_setVideo (k : Reg8) (v : Video) : reg8 k (s.setVideo v) = reg8 k s := reg8_congr k (by simp)
@[simp] theorem reg8_portRead8 (k : Reg8) (p : Word) : reg8 k (portRead8 p s).2 = reg8 k s := reg8_congr k (by simp)
@[simp] theorem reg8_portWrite8 (k : Reg8) (p : Word) (v : Byte) : reg8 k (portWrite8 p v s) = reg8 k s := reg8_congr k (by simp)
@[simp] theorem sreg_setReg16 (k : Sreg) (j : Reg16) (v : Word) : sreg k (setReg16 j v s) = sreg k s := sreg_congr k (by simp)
@[simp] theorem sreg_setReg8 (k : Sreg) (j : Reg8) (v : Byte) : sreg k (setReg8 j v s) = sreg k s := sreg_congr k (by simp)
@[simp] theorem sreg_setFlag (k : Sreg) (j : Flag) (b : Bool) : sreg k (setFlag j b s) = sreg k s := sreg_congr k (by simp)
@[simp] theorem sreg_setFlagsWord (k : Sreg) (v : Word) : sreg k (setFlagsWord v s) = sreg k s := sreg_congr k (by simp)
@[simp] theorem sreg_addFlags (k : Sreg) {w : Nat} (a b : BitVec w) (c : Bool) : sreg k (addFlags a b c s) = sreg k s := sreg_congr k (by simp)
@[simp] theorem sreg_subFlags (k : Sreg) {w : Nat} (a b : BitVec w) (c : Bool) : sreg k (subFlags a b c s) = sreg k s := sreg_congr k (by simp)
@[simp] theorem sreg_szpFlags (k : Sreg) {w : Nat} (r : BitVec w) : sreg k (szpFlags r s) = sreg k s := sreg_congr k (by simp)
@[simp] theorem sreg_undefine (k : Sreg) (js : List Flag) : sreg k (undefine js s) = sreg k s := sreg_congr k (by simp)
@[simp] theorem sreg_logicFlags (k : Sreg) {w : Nat} (r : BitVec w) : sreg k (logicFlags r s) = sreg k s := sreg_congr k (by simp)
@[simp] theorem sreg_touch8 (k : Sreg) (a : Linear) : sreg k (touch8 a s) = sreg k s := sreg_congr k (by simp)
@[simp] theorem sreg_touch16 (k : Sreg) (a : Linear) : sreg k (touch16 a s) = sreg k s := sreg_congr k (by simp)
@[simp] theorem sreg_write8 (k : Sreg) (a : Linear) (v : Byte) : sreg k (write8 a v s) = sreg k s := sreg_congr k (by simp)
@[simp] theorem sreg_write16 (k : Sreg) (a : Linear) (v : Word) : sreg k (write16 a v s) = sreg k s := sreg_congr k (by simp)
@[simp] theorem sreg_raiseFatal (k : Sreg)  : sreg k (raiseFatal s) = sreg k s := sreg_congr k (by simp)
@[simp] theorem sreg_jumpRel (k : Sreg) (rel : Byte) : sreg k (jumpRel rel s) = sreg k s := sreg_congr k (by simp)
@[simp] theorem sreg_setRegs (k : Sreg) (v : Regs) : sreg k (s.setRegs v) = sreg k s := sreg_congr k (by simp)
@[simp] theorem sreg_setIp (k : Sreg) (v : Word) : sreg k (s.setIp v) = sreg k s := sreg_congr k (by simp)
@[simp] theorem sreg_setFlags (k : Sreg) (v : Flags) : sreg k (s.setFlags v) = sreg k s := sreg_congr k (by simp)
@[simp] theorem sreg_setSegOverride (k : Sreg) (v : Option Sreg) : sreg k (s.setSegOverride v) = sreg k s := sreg_congr k (by simp)
@[simp] theorem sreg_setRep (k : Sreg) (v : Option RepPrefix) : sreg k (s.setRep v) = sreg k s := sreg_congr k (by simp)
@[simp] theorem sreg_setInstrIP (k : Sreg) (v : Word) : sreg k (s.setInstrIP v) = sreg k s := sreg_congr k (by simp)
@[simp] theorem sreg_setRun (k : Sreg) (v : Run) : sreg k (s.setRun v) = sreg k s := sreg_congr k (by simp)
@[simp] theorem sreg_setShadow (k : Sreg) (v : Table Byte) : sreg k (s.setShadow v) = sreg k s := sreg_congr k (by simp)
@[simp] theorem sreg_setPic (k : Sreg) (v : Pic) : sreg k (s.setPic v) = sreg k s := sreg_congr k (by simp)
@[simp] theorem sreg_setDisk (k : Sreg) (v : Disk) : sreg k (s.setDisk v) = sreg k s := sreg_congr k (by simp)
@[simp] theorem sreg_setHostRunning (k : Sreg) (v : Bool) : sreg k (s.setHostRunning v) = sreg k s := sreg_congr k (by simp)
@[simp] theorem sreg_setHardReset (k : Sreg) (v : Bool) : sreg k (s.setHardReset v) = sreg k s := sreg_congr k (by simp)
@[simp] theorem sreg_setBootDrive (k : Sreg) (v : Byte) : sreg k (s.setBootDrive v) = sreg k s := sreg_congr k (by simp)
@[simp] theorem sreg_setBatch (k : Sreg) (v : Option Nat) : sreg k (s.setBatch v) = sreg k s := sreg_congr k (by simp)
@[simp] theorem sreg_setEvents (k : Sreg) (v : List HostEvent) : sreg k (s.setEvents v) = sreg k s := sreg_congr k (by simp)
@[simp] theorem sreg_setDraws (k : Sreg) (v : Nat) : sreg k (s.setDraws v) = sreg k s := sreg_congr k (by simp)
@[simp] theorem sreg_setRam (k : Sreg) (v : Table Byte) : sreg k (s.setRam v) = sreg k s := sreg_congr k (by simp)
@[simp] theorem sreg_setReadonly (k : Sreg) (v : List Nat) : sreg k (s.setReadonly v) = sreg k s := sreg_congr k (by simp)
@[simp] theorem sreg_setVideo (k : Sreg) (v : Video) : sreg k (s.setVideo v) = sreg k s := sreg_congr k (by simp)
@[simp] theorem sreg_portRead8 (k : Sreg) (p : Word) : sreg k (portRead8 p s).2 = sreg k s := sreg_congr k (by simp)
@[simp] theorem sreg_portWrite8 (k : Sreg) (p : Word) (v : Byte) : sreg k (portWrite8 p v s) = sreg k s := sreg_congr k (by simp)
@[simp] theorem sreg_push16 (k : Sreg) (v : Word) : sreg k (push16 v s) = sreg k s := sreg_congr k (by simp)
@[simp] theorem flag_setReg16 (k : Flag) (j : Reg16) (v : Word) : flag k (setReg16 j v s) = flag k s := flag_congr k (by simp)
@[simp] theorem flag_setReg8 (k : Flag) (j : Reg8) (v : Byte) : flag k (setReg8 j v s) = flag k s := flag_congr k (by simp)
@[simp] theorem flag_setSreg (k : Flag) (j : Sreg) (v : Word) : flag k (setSreg j v s) = flag k s := flag_congr k (by simp)
@[simp] theorem flag_touch8 (k : Flag) (a : Linear) : flag k (touch8 a s) = flag k s := flag_congr k (by simp)
@[simp] theorem flag_touch16 (k : Flag) (a : Linear) : flag k (touch16 a s) = flag k s := flag_congr k (by simp)
@[simp] theorem flag_write8 (k : Flag) (a : Linear) (v : Byte) : flag k (write8 a v s) = flag k s := flag_congr k (by simp)
@[simp] theorem flag_write16 (k : Flag) (a : Linear) (v : Word) : flag k (write16 a v s) = flag k s := flag_congr k (by simp)
@[simp] theorem flag_raiseFatal (k : Flag)  : flag k (raiseFatal s) = flag k s := flag_congr k (by simp)
@[simp] theorem flag_jumpRel (k : Flag) (rel : Byte) : flag k (jumpRel rel s) = flag k s := flag_congr k (by simp)
@[simp] theorem flag_setRegs (k : Flag) (v : Regs) : flag k (s.setRegs v) = flag k s := flag_congr k (by simp)
@[simp] theorem flag_setSregs (k : Flag) (v : Sregs) : flag k (s.setSregs v) = flag k s := flag_congr k (by simp)
@[simp] theorem flag_setIp (k : Flag) (v : Word) : flag k (s.setIp v) = flag k s := flag_congr k (by simp)
@[simp] theorem flag_setSegOverride (k : Flag) (v : Option Sreg) : flag k (s.setSegOverride v) = flag k s := flag_congr k (by simp)
@[simp] theorem flag_setRep (k : Flag) (v : Option RepPrefix) : flag k (s.setRep v) = flag k s := flag_congr k (by simp)
@[simp] theorem flag_setInstrIP (k : Flag) (v : Word) : flag k (s.setInstrIP v) = flag k s := flag_congr k (by simp)
@[simp] theorem flag_setRun (k : Flag) (v : Run) : flag k (s.setRun v) = flag k s := flag_congr k (by simp)
@[simp] theorem flag_setShadow (k : Flag) (v : Table Byte) : flag k (s.setShadow v) = flag k s := flag_congr k (by simp)
@[simp] theorem flag_setPic (k : Flag) (v : Pic) : flag k (s.setPic v) = flag k s := flag_congr k (by simp)
@[simp] theorem flag_setDisk (k : Flag) (v : Disk) : flag k (s.setDisk v) = flag k s := flag_congr k (by simp)
@[simp] theorem flag_setHostRunning (k : Flag) (v : Bool) : flag k (s.setHostRunning v) = flag k s := flag_congr k (by simp)
@[simp] theorem flag_setHardReset (k : Flag) (v : Bool) : flag k (s.setHardReset v) = flag k s := flag_congr k (by simp)
@[simp] theorem flag_setBootDrive (k : Flag) (v : Byte) : flag k (s.setBootDrive v) = flag k s := flag_congr k (by simp)
@[simp] theorem flag_setBatch (k : Flag) (v : Option Nat) : flag k (s.setBatch v) = flag k s := flag_congr k (by simp)
@[simp] theorem flag_setEvents (k : Flag) (v : List HostEvent) : flag k (s.setEvents v) = flag k s := flag_congr k (by simp)
@[simp] theorem flag_setDraws (k : Flag) (v : Nat) : flag k (s.setDraws v) = flag k s := flag_congr k (by simp)
@[simp] theorem flag_setRam (k : Flag) (v : Table Byte) : flag k (s.setRam v) = flag k s := flag_congr k (by simp)
@[simp] theorem flag_setReadonly (k : Flag) (v : List Nat) : flag k (s.setReadonly v) = flag k s := flag_congr k (by simp)
@[simp] theorem flag_setVideo (k : Flag) (v : Video) : flag k (s.setVideo v) = flag k s := flag_congr k (by simp)
@[simp] theorem flag_portRead8 (k : Flag) (p : Word) : flag k (portRead8 p s).2 = flag k s := flag_congr k (by simp)
@[simp] theorem flag_portWrite8 (k : Flag) (p : Word) (v : Byte) : flag k (portWrite8 p v s) = flag k s := flag_congr k (by simp)
@[simp] theorem flag_push16 (k : Flag) (v : Word) : flag k (push16 v s) = flag k s := flag_congr k (by simp)
end

/-! ## The byte an address reads as -/

/-- A read depends on RAM and the adapter alone. -/
theorem peek8_congr {s t : State} (a : Linear) (hr : t.ram = s.ram) (hv : t.video = s.video) :
    peek8 a t = peek8 a s := by simp [peek8, hr, hv]

theorem peek16_congr {s t : State} (a : Linear) (hr : t.ram = s.ram) (hv : t.video = s.video) :
    peek16 a t = peek16 a s := by simp [peek16, peek8_congr _ hr hv]

theorem Video.planarByte_loadLatch (v : Video) (a b : Nat) : (v.loadLatch a).planarByte b = v.planarByte b := rfl

/-- Loading the latch changes no byte read (R110). -/
@[simp] theorem peek8_touch8 (s : State) (a b : Linear) : peek8 b (touch8 a s) = peek8 b s := by
  unfold touch8
  split
  · simp [peek8, Video.planarByte_loadLatch]
  · rfl

@[simp] theorem peek8_touch16 (s : State) (a b : Linear) : peek8 b (touch16 a s) = peek8 b s := by
  simp [touch16]

@[simp] theorem peek16_touch8 (s : State) (a b : Linear) : peek16 b (touch8 a s) = peek16 b s := by
  simp [peek16]

@[simp] theorem peek16_touch16 (s : State) (a b : Linear) : peek16 b (touch16 a s) = peek16 b s := by
  simp [peek16]

section
variable (s : State)

@[simp] theorem peek8_setReg16 (a : Linear) (j : Reg16) (v : Word) : peek8 a (setReg16 j v s) = peek8 a s := peek8_congr a (by simp) (by simp)
@[simp] theorem peek16_setReg16 (a : Linear) (j : Reg16) (v : Word) : peek16 a (setReg16 j v s) = peek16 a s := peek16_congr a (by simp) (by simp)
@[simp] theorem peek8_setReg8 (a : Linear) (j : Reg8) (v : Byte) : peek8 a (setReg8 j v s) = peek8 a s := peek8_congr a (by simp) (by simp)
@[simp] theorem peek16_setReg8 (a : Linear) (j : Reg8) (v : Byte) : peek16 a (setReg8 j v s) = peek16 a s := peek16_congr a (by simp) (by simp)
@[simp] theorem peek8_setSreg (a : Linear) (j : Sreg) (v : Word) : peek8 a (setSreg j v s) = peek8 a s := peek8_congr a (by simp) (by simp)
@[simp] theorem peek16_setSreg (a : Linear) (j : Sreg) (v : Word) : peek16 a (setSreg j v s) = peek16 a s := peek16_congr a (by simp) (by simp)
@[simp] theorem peek8_setFlag (a : Linear) (j : Flag) (b : Bool) : peek8 a (setFlag j b s) = peek8 a s := peek8_congr a (by simp) (by simp)
@[simp] theorem peek16_setFlag (a : Linear) (j : Flag) (b : Bool) : peek16 a (setFlag j b s) = peek16 a s := peek16_congr a (by simp) (by simp)
@[simp] theorem peek8_setFlagsWord (a : Linear) (v : Word) : peek8 a (setFlagsWord v s) = peek8 a s := peek8_congr a (by simp) (by simp)
@[simp] theorem peek16_setFlagsWord (a : Linear) (v : Word) : peek16 a (setFlagsWord v s) = peek16 a s := peek16_congr a (by simp) (by simp)
@[simp] theorem peek8_addFlags (a : Linear) {w : Nat} (x y : BitVec w) (c : Bool) : peek8 a (addFlags x y c s) = peek8 a s := peek8_congr a (by simp) (by simp)
@[simp] theorem peek16_addFlags (a : Linear) {w : Nat} (x y : BitVec w) (c : Bool) : peek16 a (addFlags x y c s) = peek16 a s := peek16_congr a (by simp) (by simp)
@[simp] theorem peek8_subFlags (a : Linear) {w : Nat} (x y : BitVec w) (c : Bool) : peek8 a (subFlags x y c s) = peek8 a s := peek8_congr a (by simp) (by simp)
@[simp] theorem peek16_subFlags (a : Linear) {w : Nat} (x y : BitVec w) (c : Bool) : peek16 a (subFlags x y c s) = peek16 a s := peek16_congr a (by simp) (by simp)
@[simp] theorem peek8_szpFlags (a : Linear) {w : Nat} (r : BitVec w) : peek8 a (szpFlags r s) = peek8 a s := peek8_congr a (by simp) (by simp)
@[simp] theorem peek16_szpFlags (a : Linear) {w : Nat} (r : BitVec w) : peek16 a (szpFlags r s) = peek16 a s := peek16_congr a (by simp) (by simp)
@[simp] theorem peek8_undefine (a : Linear) (js : List Flag) : peek8 a (undefine js s) = peek8 a s := peek8_congr a (by simp) (by simp)
@[simp] theorem peek16_undefine (a : Linear) (js : List Flag) : peek16 a (undefine js s) = peek16 a s := peek16_congr a (by simp) (by simp)
@[simp] theorem peek8_logicFlags (a : Linear) {w : Nat} (r : BitVec w) : peek8 a (logicFlags r s) = peek8 a s := peek8_congr a (by simp) (by simp)
@[simp] theorem peek16_logicFlags (a : Linear) {w : Nat} (r : BitVec w) : peek16 a (logicFlags r s) = peek16 a s := peek16_congr a (by simp) (by simp)
@[simp] theorem peek8_raiseFatal (a : Linear)  : peek8 a (raiseFatal s) = peek8 a s := peek8_congr a (by simp) (by simp)
@[simp] theorem peek16_raiseFatal (a : Linear)  : peek16 a (raiseFatal s) = peek16 a s := peek16_congr a (by simp) (by simp)
@[simp] theorem peek8_jumpRel (a : Linear) (rel : Byte) : peek8 a (jumpRel rel s) = peek8 a s := peek8_congr a (by simp) (by simp)
@[simp] theorem peek16_jumpRel (a : Linear) (rel : Byte) : peek16 a (jumpRel rel s) = peek16 a s := peek16_congr a (by simp) (by simp)
@[simp] theorem peek8_setRegs (a : Linear) (v : Regs) : peek8 a (s.setRegs v) = peek8 a s := peek8_congr a (by simp) (by simp)
@[simp] theorem peek16_setRegs (a : Linear) (v : Regs) : peek16 a (s.setRegs v) = peek16 a s := peek16_congr a (by simp) (by simp)
@[simp] theorem peek8_setSregs (a : Linear) (v : Sregs) : peek8 a (s.setSregs v) = peek8 a s := peek8_congr a (by simp) (by simp)
@[simp] theorem peek16_setSregs (a : Linear) (v : Sregs) : peek16 a (s.setSregs v) = peek16 a s := peek16_congr a (by simp) (by simp)
@[simp] theorem peek8_setIp (a : Linear) (v : Word) : peek8 a (s.setIp v) = peek8 a s := peek8_congr a (by simp) (by simp)
@[simp] theorem peek16_setIp (a : Linear) (v : Word) : peek16 a (s.setIp v) = peek16 a s := peek16_congr a (by simp) (by simp)
@[simp] theorem peek8_setFlags (a : Linear) (v : Flags) : peek8 a (s.setFlags v) = peek8 a s := peek8_congr a (by simp) (by simp)
@[simp] theorem peek16_setFlags (a : Linear) (v : Flags) : peek16 a (s.setFlags v) = peek16 a s := peek16_congr a (by simp) (by simp)
@[simp] theorem peek8_setSegOverride (a : Linear) (v : Option Sreg) : peek8 a (s.setSegOverride v) = peek8 a s := peek8_congr a (by simp) (by simp)
@[simp] theorem peek16_setSegOverride (a : Linear) (v : Option Sreg) : peek16 a (s.setSegOverride v) = peek16 a s := peek16_congr a (by simp) (by simp)
@[simp] theorem peek8_setRep (a : Linear) (v : Option RepPrefix) : peek8 a (s.setRep v) = peek8 a s := peek8_congr a (by simp) (by simp)
@[simp] theorem peek16_setRep (a : Linear) (v : Option RepPrefix) : peek16 a (s.setRep v) = peek16 a s := peek16_congr a (by simp) (by simp)
@[simp] theorem peek8_setInstrIP (a : Linear) (v : Word) : peek8 a (s.setInstrIP v) = peek8 a s := peek8_congr a (by simp) (by simp)
@[simp] theorem peek16_setInstrIP (a : Linear) (v : Word) : peek16 a (s.setInstrIP v) = peek16 a s := peek16_congr a (by simp) (by simp)
@[simp] theorem peek8_setRun (a : Linear) (v : Run) : peek8 a (s.setRun v) = peek8 a s := peek8_congr a (by simp) (by simp)
@[simp] theorem peek16_setRun (a : Linear) (v : Run) : peek16 a (s.setRun v) = peek16 a s := peek16_congr a (by simp) (by simp)
@[simp] theorem peek8_setShadow (a : Linear) (v : Table Byte) : peek8 a (s.setShadow v) = peek8 a s := peek8_congr a (by simp) (by simp)
@[simp] theorem peek16_setShadow (a : Linear) (v : Table Byte) : peek16 a (s.setShadow v) = peek16 a s := peek16_congr a (by simp) (by simp)
@[simp] theorem peek8_setPic (a : Linear) (v : Pic) : peek8 a (s.setPic v) = peek8 a s := peek8_congr a (by simp) (by simp)
@[simp] theorem peek16_setPic (a : Linear) (v : Pic) : peek16 a (s.setPic v) = peek16 a s := peek16_congr a (by simp) (by simp)
@[simp] theorem peek8_setDisk (a : Linear) (v : Disk) : peek8 a (s.setDisk v) = peek8 a s := peek8_congr a (by simp) (by simp)
@[simp] theorem peek16_setDisk (a : Linear) (v : Disk) : peek16 a (s.setDisk v) = peek16 a s := peek16_congr a (by simp) (by simp)
@[simp] theorem peek8_setHostRunning (a : Linear) (v : Bool) : peek8 a (s.setHostRunning v) = peek8 a s := peek8_congr a (by simp) (by simp)
@[simp] theorem peek16_setHostRunning (a : Linear) (v : Bool) : peek16 a (s.setHostRunning v) = peek16 a s := peek16_congr a (by simp) (by simp)
@[simp] theorem peek8_setHardReset (a : Linear) (v : Bool) : peek8 a (s.setHardReset v) = peek8 a s := peek8_congr a (by simp) (by simp)
@[simp] theorem peek16_setHardReset (a : Linear) (v : Bool) : peek16 a (s.setHardReset v) = peek16 a s := peek16_congr a (by simp) (by simp)
@[simp] theorem peek8_setBootDrive (a : Linear) (v : Byte) : peek8 a (s.setBootDrive v) = peek8 a s := peek8_congr a (by simp) (by simp)
@[simp] theorem peek16_setBootDrive (a : Linear) (v : Byte) : peek16 a (s.setBootDrive v) = peek16 a s := peek16_congr a (by simp) (by simp)
@[simp] theorem peek8_setBatch (a : Linear) (v : Option Nat) : peek8 a (s.setBatch v) = peek8 a s := peek8_congr a (by simp) (by simp)
@[simp] theorem peek8_setEvents (a : Linear) (v : List HostEvent) : peek8 a (s.setEvents v) = peek8 a s := peek8_congr a (by simp) (by simp)
@[simp] theorem peek16_setBatch (a : Linear) (v : Option Nat) : peek16 a (s.setBatch v) = peek16 a s := peek16_congr a (by simp) (by simp)
@[simp] theorem peek16_setEvents (a : Linear) (v : List HostEvent) : peek16 a (s.setEvents v) = peek16 a s := peek16_congr a (by simp) (by simp)
@[simp] theorem peek8_setDraws (a : Linear) (v : Nat) : peek8 a (s.setDraws v) = peek8 a s := peek8_congr a (by simp) (by simp)
@[simp] theorem peek16_setDraws (a : Linear) (v : Nat) : peek16 a (s.setDraws v) = peek16 a s := peek16_congr a (by simp) (by simp)
@[simp] theorem peek8_setReadonly (a : Linear) (v : List Nat) : peek8 a (s.setReadonly v) = peek8 a s := peek8_congr a (by simp) (by simp)
@[simp] theorem peek16_setReadonly (a : Linear) (v : List Nat) : peek16 a (s.setReadonly v) = peek16 a s := peek16_congr a (by simp) (by simp)
end

/-! ## Reading after a write -/

theorem ramGet_ramSet (m : Memory) (a b : Linear) (v : Byte) :
    ramGet (ramSet m a v) b = if b = a then v else ramGet m b := by
  unfold ramGet ramSet
  rw [Table.get_set]
  simp only [BitVec.toNat_inj]

theorem planeGet_planeSet (p : Table Byte) (a b : Nat) (v : Byte) :
    planeGet (planeSet p a v) b = if b = a then v else planeGet p b := Table.get_set ..

theorem planeGet_planeStore (e : Bool) (p : Table Byte) (a b : Nat) (v : Byte) :
    planeGet (planeStore e a v p) b = if b = a ∧ e = true then v else planeGet p b := by
  unfold planeStore
  cases e <;> simp [planeGet_planeSet]

/-- A store leaves every other offset of every plane. -/
theorem Video.planeGet_planarStore_other (v : Video) (i : BitVec 2) {a b : Nat} (x : Byte) (h : b ≠ a) :
    planeGet ((v.planarStore a x).planes.plane i) b = planeGet (v.planes.plane i) b := by
  simp only [Video.planarStore, Planes.store, Planes.plane]
  split <;> simp [planeGet_planeStore, h]

theorem Video.planarByte_store_other (v : Video) {a b : Nat} (x : Byte) (h : b ≠ a) :
    (v.planarStore a x).planarByte b = v.planarByte b := by
  have hp (e : Bool) (p : Table Byte) (y : Byte) : planeGet (planeStore e a y p) b = planeGet p b := by
    simp [planeGet_planeStore, h]
  have hr : (v.planarStore a x).readMap = v.readMap := rfl
  have hm : (v.planarStore a x).readMode = v.readMode := rfl
  have h1 : (v.planarStore a x).readMode1 b = v.readMode1 b := by
    simp only [Video.readMode1, Video.planarStore, Planes.store, hp]; rfl
  rw [Video.planarByte, Video.planarByte, hr, hm, h1, v.planeGet_planarStore_other _ x h]

/-- The aperture as a range (R101). -/
theorem inAperture_iff (a : Linear) : inAperture a = true ↔ 0xA0000 ≤ a.toNat ∧ a.toNat < 0xB0000 := by
  have h : (a.extractLsb' 16 4).toNat = a.toNat / 65536 % 16 := by
    simp [BitVec.extractLsb'_toNat, Nat.shiftRight_eq_div_pow]
  have hx := a.isLt
  rw [inAperture, beq_iff_eq, ← BitVec.toNat_inj, h]
  simp only [BitVec.toNat_ofNat]
  omega

theorem apertureOffset_eq (a : Linear) : apertureOffset a = a.toNat % 65536 := by
  simp [apertureOffset, BitVec.extractLsb'_toNat]

theorem apertureOffset_lt (a : Linear) : apertureOffset a < 0x10000 := by
  rw [apertureOffset_eq]; omega

theorem apertureOffset_ne {a b : Linear} (h : b ≠ a) (ha : inAperture a = true) (hb : inAperture b = true) :
    apertureOffset b ≠ apertureOffset a := by
  rw [inAperture_iff] at ha hb
  rw [apertureOffset_eq, apertureOffset_eq]
  intro he
  apply h
  rw [← BitVec.toNat_inj]
  omega

/-- A write changes no other byte (R102). -/
theorem peek8_write8_other (s : State) {a b : Linear} (v : Byte) (h : b ≠ a) :
    peek8 b (write8 a v s) = peek8 b s := by
  unfold write8
  split
  · rfl
  · split
    · rename_i ha
      unfold peek8
      split
      · rename_i hb
        exact Video.planarByte_store_other _ v (apertureOffset_ne h ha hb)
      · rfl
    · unfold peek8
      split
      · rfl
      · exact (ramGet_ramSet ..).trans (if_neg h)

/-- A RAM byte that is not read-only reads as written (R106). -/
theorem peek8_write8_ram (s : State) {a : Linear} (v : Byte) (hro : isReadonly a s = false)
    (ha : inAperture a = false) : peek8 a (write8 a v s) = v := by
  simp [write8, hro, ha, peek8, ramGet_ramSet]

/-- A read-only byte stays (R102). -/
theorem write8_of_readonly (s : State) {a : Linear} (v : Byte) (hro : isReadonly a s = true) : write8 a v s = s := by
  simp [write8, hro]

theorem peek8_write16_other (s : State) {a b : Linear} (v : Word) (h : b ≠ a) (h' : b ≠ a + 1) :
    peek8 b (write16 a v s) = peek8 b s := by
  unfold write16
  rw [peek8_write8_other _ _ h', peek8_write8_other _ _ h]

@[simp] theorem isReadonly_congr {s t : State} (a : Linear) (h : t.readonly = s.readonly) :
    isReadonly a t = isReadonly a s := by simp [isReadonly, h]

/-! ## Word reads as their value and their effect -/

theorem read8_eq (a : Linear) (s : State) : read8 a s = (peek8 a s, touch8 a s) := rfl

theorem read16_eq (a : Linear) (s : State) : read16 a s = (peek16 a s, touch16 a s) := by
  simp [read16, read8, peek16, touch16]

theorem readFar_eq (a : Linear) (s : State) :
    readFar a s = (peek16 a s, peek16 (a + 2) s, touch16 (a + 2) (touch16 a s)) := by
  simp [readFar, read16_eq]

theorem pop16_eq (s : State) :
    pop16 s = (peek16 (stackTop s) s, setReg16 .sp (reg16 .sp s + 2) (touch16 (stackTop s) s)) := by
  simp [pop16, read16_eq]

/-! ## The adapter's registers -/

@[simp] theorem touch8_registers (a : Linear) (s : State) : (touch8 a s).video.registers = s.video.registers := by
  unfold touch8; split <;> rfl

@[simp] theorem touch16_registers (a : Linear) (s : State) : (touch16 a s).video.registers = s.video.registers := by
  simp [touch16]

@[simp] theorem write8_registers (a : Linear) (v : Byte) (s : State) :
    (write8 a v s).video.registers = s.video.registers := by
  unfold write8; split <;> [rfl; (split <;> rfl)]

@[simp] theorem write16_registers (a : Linear) (v : Word) (s : State) :
    (write16 a v s).video.registers = s.video.registers := by
  simp [write16]

@[simp] theorem push16_registers (v : Word) (s : State) : (push16 v s).video.registers = s.video.registers := by
  simp [push16]

/-- A load leaves the planes. -/
@[simp] theorem touch8_planes (a : Linear) (s : State) : (touch8 a s).video.planes = s.video.planes := by
  unfold touch8; split <;> rfl

@[simp] theorem touch16_planes (a : Linear) (s : State) : (touch16 a s).video.planes = s.video.planes := by
  simp [touch16]

end Sys2Proof.Machine
end

