-- ==== Sys2Proof/Laws/Decode.lean ====
section
/-! SUPPORT. What the decoder reads back from encoded parts of an instruction. -/

namespace Sys2Proof

/-! ## Words and ModR/M -/

theorem bytes_of_word (w : Word) : w.extractLsb' 8 8 ++ w.extractLsb' 0 8 = w := Machine.highByte_append_lowByte w

/-- A word reads back from its two bytes (R107). -/
theorem word_wordBytes (w : Word) (rest : List Byte) : word (wordBytes w ++ rest) = .ok (w, rest) := by
  simp [word, wordBytes, bytes_of_word]

theorem Oct.ofBits_toBits (o : Oct) : Oct.ofBits o.toBits = o := by cases o <;> rfl
theorem Oct.toBits_ofBits (b : BitVec 3) : (Oct.ofBits b).toBits = b := by revert b; decide

/-- The digit of a register's code names the register (R30). -/
theorem Reg16.ofOct_code (r : Reg16) : Reg16.ofOct (Oct.ofBits r.code) = r := by cases r <;> rfl
theorem Reg8.ofOct_code (r : Reg8) : Reg8.ofOct (Oct.ofBits r.code) = r := by cases r <;> rfl
theorem EaBase.ofOct_code (b : EaBase) : EaBase.ofOct (Oct.ofBits b.code) = b := by cases b <;> rfl

/-- The three fields of a ModR/M byte (R180). -/
theorem modRMByte_mod (mod : BitVec 2) (reg rm : BitVec 3) : (modRMByte mod reg rm).extractLsb' 6 2 = mod := by
  revert mod reg rm; decide
theorem modRMByte_reg (mod : BitVec 2) (reg rm : BitVec 3) : octMid (modRMByte mod reg rm) = Oct.ofBits reg := by
  revert mod reg rm; decide
theorem modRMByte_rm (mod : BitVec 2) (reg rm : BitVec 3) : octLow (modRMByte mod reg rm) = Oct.ofBits rm := by
  revert mod reg rm; decide

/-- The rm operand with its register as the digit of its code. -/
def RM8.digits (rm : RM8) : RM Oct := rm.mapReg fun r => Oct.ofBits r.code
def RM16.digits (rm : RM16) : RM Oct := rm.mapReg fun r => Oct.ofBits r.code

theorem asRM8_digits (rm : RM8) : asRM8 (RM8.digits rm) = rm := by
  cases rm <;> simp [asRM8, RM8.digits, RM.mapReg, Reg8.ofOct_code]
theorem asRM16_digits (rm : RM16) : asRM16 (RM16.digits rm) = rm := by
  cases rm <;> simp [asRM16, RM16.digits, RM.mapReg, Reg16.ofOct_code]

/-- A memory operand reads back from its ModR/M byte and displacement (R181). -/
theorem modRM_mem (reg : BitVec 3) (m : MemOp) (hm : m.wf = true) (rest : List Byte) :
    modRM (m.encode reg ++ rest) = .ok ((Oct.ofBits reg, .mem m), rest) := by
  cases m with
  | direct d =>
    simp only [MemOp.encode, List.cons_append, modRM, Parser.bind, byte, modRMByte_mod, modRMByte_rm, modRMByte_reg]
    show Parser.map word _ _ = _
    simp only [Parser.map, word_wordBytes]
  | base b =>
    simp only [MemOp.encode, List.cons_append, modRM, Parser.bind, byte, modRMByte_mod, modRMByte_rm, modRMByte_reg]
    cases b <;> first | rfl | exact absurd hm (by decide)
  | disp8 b d =>
    simp only [MemOp.encode, List.cons_append, modRM, Parser.bind, byte, modRMByte_mod, modRMByte_rm, modRMByte_reg]
    cases b <;> rfl
  | disp16 b d =>
    simp only [MemOp.encode, List.cons_append, modRM, Parser.bind, byte, modRMByte_mod, modRMByte_rm, modRMByte_reg]
    have h : Parser.map word (fun d => ((Oct.ofBits reg, RM.mem (.disp16 (.ofOct (Oct.ofBits b.code)) d)) : Oct × RM Oct))
        (wordBytes d ++ rest) = .ok ((Oct.ofBits reg, .mem (.disp16 b d)), rest) := by
      simp only [Parser.map, word_wordBytes, EaBase.ofOct_code]
    cases b <;> exact h

theorem modRM_reg (reg rm : BitVec 3) (rest : List Byte) :
    modRM (modRMByte 3 reg rm :: rest) = .ok ((Oct.ofBits reg, .reg (Oct.ofBits rm)), rest) := by
  simp only [modRM, Parser.bind, byte, modRMByte_mod, modRMByte_rm, modRMByte_reg]
  cases Oct.ofBits rm <;> rfl

theorem modRM_encode8 (reg : BitVec 3) (rm : RM8) (hw : rm.wf = true) (rest : List Byte) :
    modRM (RM8.encode reg rm ++ rest) = .ok ((Oct.ofBits reg, RM8.digits rm), rest) := by
  cases rm with
  | reg r => exact modRM_reg ..
  | mem m => exact modRM_mem _ _ hw _

theorem modRM_encode16 (reg : BitVec 3) (rm : RM16) (hw : rm.wf = true) (rest : List Byte) :
    modRM (RM16.encode reg rm ++ rest) = .ok ((Oct.ofBits reg, RM16.digits rm), rest) := by
  cases rm with
  | reg r => exact modRM_reg ..
  | mem m => exact modRM_mem _ _ hw _

/-- Reading with `map` and `bind` after a successful read. -/
theorem Parser.map_ok {α β : Type} {p : Parser α} {f : α → β} {bytes rest : List Byte} {a : α}
    (h : p bytes = .ok (a, rest)) : p.map f bytes = .ok (f a, rest) := by simp [Parser.map, h]
theorem Parser.bind_ok {α β : Type} {p : Parser α} {f : α → Parser β} {bytes rest : List Byte} {a : α}
    (h : p bytes = .ok (a, rest)) : p.bind f bytes = f a rest := by simp [Parser.bind, h]

theorem decode_cons (ext : Bool) (op : Byte) (rest : List Byte) : decode ext (op :: rest) = decodeOp ext op rest := rfl


/-! ## Groups of opcodes -/

/-- The two-operand ALU forms (R303, R196). -/
theorem decode_alu (ext : Bool) (o : Oct) (f : AluForm) (hw : f.wf = true) (rest : List Byte) :
    decode ext (f.encode o.toBits ++ rest) = .ok (aluInstr o f, rest) := by
  cases f with
  | byte f =>
    cases f with
    | ebGb rm g =>
      have h := Parser.map_ok (f := fun p : Oct × RM Oct => aluInstr o (.byte (.ebGb (asRM8 p.2) (.ofOct p.1))))
        (modRM_encode8 g.code rm hw rest)
      simp only [asRM8_digits, Reg8.ofOct_code] at h
      cases o <;> exact h
    | gbEb g rm =>
      have h := Parser.map_ok (f := fun p : Oct × RM Oct => aluInstr o (.byte (.gbEb (.ofOct p.1) (asRM8 p.2))))
        (modRM_encode8 g.code rm hw rest)
      simp only [asRM8_digits, Reg8.ofOct_code] at h
      cases o <;> exact h
    | alIb i => cases o <;> rfl
    | ebIb rm i =>
      have h := (Parser.bind_ok (f := fun p : Oct × RM Oct => byte.map fun i =>
        aluInstr p.1 (.byte (.ebIb (asRM8 p.2) i))) (modRM_encode8 o.toBits rm hw (i :: rest)))
      simp only [asRM8_digits, Oct.ofBits_toBits] at h
      rw [AluForm.encode, List.cons_append, List.append_assoc]
      exact h
    | ebIbDup rm i =>
      have h := (Parser.bind_ok (f := fun p : Oct × RM Oct => byte.map fun i =>
        aluInstr p.1 (.byte (.ebIbDup (asRM8 p.2) i))) (modRM_encode8 o.toBits rm hw (i :: rest)))
      simp only [asRM8_digits, Oct.ofBits_toBits] at h
      rw [AluForm.encode, List.cons_append, List.append_assoc]
      exact h
  | word f =>
    cases f with
    | ewGw rm g =>
      have h := Parser.map_ok (f := fun p : Oct × RM Oct => aluInstr o (.word (.ewGw (asRM16 p.2) (.ofOct p.1))))
        (modRM_encode16 g.code rm hw rest)
      simp only [asRM16_digits, Reg16.ofOct_code] at h
      cases o <;> exact h
    | gwEw g rm =>
      have h := Parser.map_ok (f := fun p : Oct × RM Oct => aluInstr o (.word (.gwEw (.ofOct p.1) (asRM16 p.2))))
        (modRM_encode16 g.code rm hw rest)
      simp only [asRM16_digits, Reg16.ofOct_code] at h
      cases o <;> exact h
    | axIw i =>
      have h := Parser.map_ok (f := fun i => aluInstr o (.word (.axIw i))) (word_wordBytes i rest)
      cases o <;> exact h
    | ewIw rm i =>
      have h := (Parser.bind_ok (f := fun p : Oct × RM Oct => word.map fun i =>
        aluInstr p.1 (.word (.ewIw (asRM16 p.2) i))) (modRM_encode16 o.toBits rm hw (wordBytes i ++ rest)))
      simp only [asRM16_digits, Oct.ofBits_toBits] at h
      rw [AluForm.encode, List.cons_append, List.append_assoc]
      exact h.trans (Parser.map_ok (word_wordBytes i rest))
    | ewIbs rm i =>
      have h := (Parser.bind_ok (f := fun p : Oct × RM Oct => byte.map fun i =>
        aluInstr p.1 (.word (.ewIbs (asRM16 p.2) i))) (modRM_encode16 o.toBits rm hw (i :: rest)))
      simp only [asRM16_digits, Oct.ofBits_toBits] at h
      rw [AluForm.encode, List.cons_append, List.append_assoc]
      exact h

/-- The shifts and rotates (R197). -/
theorem decode_shift (ext : Bool) (o : Oct) (mk : EOp → ShiftCount → Instr) (hmk : shiftInstr o = some mk) (e : EOp)
    (c : ShiftCount) (hw : e.wf = true) (rest : List Byte) :
    decode ext (shiftBytes o.toBits e c ++ rest) = .ok (mk e c, rest) := by
  cases e with
  | b rm =>
    have h (l) := modRM_encode8 o.toBits rm hw l
    simp only [Oct.ofBits_toBits] at h
    cases c with
    | imm n =>
      simp only [shiftBytes, EOp.encode, List.cons_append, List.append_assoc]
      refine (Parser.bind_ok (h (n :: rest))).trans ?_
      simp only [hmk, eb, asRM8_digits]
      rfl
    | one => refine (Parser.map_ok (h rest)).trans ?_; simp only [hmk, eb, asRM8_digits]
    | cl => refine (Parser.map_ok (h rest)).trans ?_; simp only [hmk, eb, asRM8_digits]
  | w rm =>
    have h (l) := modRM_encode16 o.toBits rm hw l
    simp only [Oct.ofBits_toBits] at h
    cases c with
    | imm n =>
      simp only [shiftBytes, EOp.encode, List.cons_append, List.append_assoc]
      refine (Parser.bind_ok (h (n :: rest))).trans ?_
      simp only [hmk, ew, asRM16_digits]
      rfl
    | one => refine (Parser.map_ok (h rest)).trans ?_; simp only [hmk, ew, asRM16_digits]
    | cl => refine (Parser.map_ok (h rest)).trans ?_; simp only [hmk, ew, asRM16_digits]

/-- Group 3 but for TEST (R198). -/
theorem decode_unary (ext : Bool) (o : Oct) (mk : EOp → Instr) (ho : o ≠ .o0)
    (hb : ∀ rm, unaryGroup 0xF6#8 eb o rm = mk (eb rm)) (hwd : ∀ rm, unaryGroup 0xF7#8 ew o rm = mk (ew rm))
    (e : EOp) (hw : e.wf = true) (rest : List Byte) :
    decode ext (e.encode 0xF6#8 0xF7#8 o.toBits ++ rest) = .ok (mk e, rest) := by
  cases e with
  | b rm =>
    have h := modRM_encode8 o.toBits rm hw rest
    simp only [Oct.ofBits_toBits] at h
    refine (Parser.bind_ok h).trans ?_
    simp only [ho, if_false, hb, eb, asRM8_digits]
    rfl
  | w rm =>
    have h := modRM_encode16 o.toBits rm hw rest
    simp only [Oct.ofBits_toBits] at h
    refine (Parser.bind_ok h).trans ?_
    simp only [ho, if_false, hwd, ew, asRM16_digits]
    rfl

end Sys2Proof
end

