-- ==== Sys2Proof/Laws/PerInstr.lean ====
section
/-! SUPPORT. The family RoundTrip: decoding an encoded instruction gives it back, one lemma for each constructor. -/

namespace Sys2Proof.Laws.RoundTrip

/-- Decoding the bytes of a well-formed instruction gives the instruction, whatever follows them. -/
def Statement (i : Instr) : Prop :=
  ∀ (ext : Bool) (rest : List Byte), i.wf ext = true → decode ext (encode i ++ rest) = .ok (i, rest)

theorem prefixES : Statement (.prefixES) := by
  intro ext rest _
  rfl

theorem prefixCS : Statement (.prefixCS) := by
  intro ext rest _
  rfl

theorem prefixSS : Statement (.prefixSS) := by
  intro ext rest _
  rfl

theorem prefixDS : Statement (.prefixDS) := by
  intro ext rest _
  rfl

theorem lock : Statement (.lock) := by
  intro ext rest _
  rfl

theorem repne : Statement (.repne) := by
  intro ext rest _
  rfl

theorem rep : Statement (.rep) := by
  intro ext rest _
  rfl

theorem mov (f : MovForm) : Statement (.mov f) := by
  intro ext rest hw
  cases f with
  | ebGb rm g =>
    refine (Parser.map_ok (modRM_encode8 g.code rm hw rest)).trans ?_
    simp only [asRM8_digits, Reg8.ofOct_code]
  | ewGw rm g =>
    refine (Parser.map_ok (modRM_encode16 g.code rm hw rest)).trans ?_
    simp only [asRM16_digits, Reg16.ofOct_code]
  | gbEb g rm =>
    refine (Parser.map_ok (modRM_encode8 g.code rm hw rest)).trans ?_
    simp only [asRM8_digits, Reg8.ofOct_code]
  | gwEw g rm =>
    refine (Parser.map_ok (modRM_encode16 g.code rm hw rest)).trans ?_
    simp only [asRM16_digits, Reg16.ofOct_code]

theorem movEImm (f : EImm) : Statement (.movEImm f) := by
  intro ext rest hw
  cases f with
  | b rm i =>
    rw [encode, List.cons_append, List.append_assoc]
    refine (Parser.bind_ok (modRM_encode8 0 rm hw (i :: rest))).trans ?_
    show Except.ok (Instr.movEImm (.b (asRM8 (RM8.digits rm)) i), rest) = _
    rw [asRM8_digits]
  | w rm i =>
    rw [encode, List.cons_append, List.append_assoc]
    refine (Parser.bind_ok (modRM_encode16 0 rm hw (wordBytes i ++ rest))).trans ?_
    show Parser.map word (fun i => Instr.movEImm (.w (asRM16 (RM16.digits rm)) i)) (wordBytes i ++ rest) = _
    rw [asRM16_digits]
    exact Parser.map_ok (word_wordBytes i rest)

theorem movRegImm (f : RegImm) : Statement (.movRegImm f) := by
  intro ext rest _
  cases f with
  | b r i => cases r <;> rfl
  | w r i =>
    have h := Parser.map_ok (f := fun i => Instr.movRegImm (.w r i)) (word_wordBytes i rest)
    cases r <;> exact h

theorem movMoffs (f : MoffsForm) : Statement (.movMoffs f) := by
  intro ext rest _
  cases f with
  | alOb o => exact Parser.map_ok (f := fun o => Instr.movMoffs (.alOb o)) (word_wordBytes o rest)
  | axOw o => exact Parser.map_ok (f := fun o => Instr.movMoffs (.axOw o)) (word_wordBytes o rest)
  | obAl o => exact Parser.map_ok (f := fun o => Instr.movMoffs (.obAl o)) (word_wordBytes o rest)
  | owAx o => exact Parser.map_ok (f := fun o => Instr.movMoffs (.owAx o)) (word_wordBytes o rest)

theorem movFromSreg (rm : RM16) (sr : Sreg) : Statement (.movFromSreg rm sr) := by
  intro ext rest hw
  cases sr <;> (refine (Parser.map_ok (modRM_encode16 _ rm hw rest)).trans ?_; simp only [asRM16_digits]; rfl)

theorem movToSreg (sr : Sreg) (rm : RM16) : Statement (.movToSreg sr rm) := by
  intro ext rest hw
  obtain ⟨hs, hw⟩ := Bool.and_eq_true_iff.1 hw
  have h (b : BitVec 3) := modRM_encode16 b rm hw rest
  cases sr
  · refine (Parser.map_ok (h 0)).trans ?_; simp only [asRM16_digits]; rfl
  · exact absurd hs (by decide)
  · refine (Parser.map_ok (h 2)).trans ?_; simp only [asRM16_digits]; rfl
  · refine (Parser.map_ok (h 3)).trans ?_; simp only [asRM16_digits]; rfl

theorem movCS (rm : RM16) : Statement (.movCS rm) := by
  intro ext rest hw
  refine (Parser.map_ok (modRM_encode16 1 rm hw rest)).trans ?_
  simp only [asRM16_digits]
  rfl

theorem reservedSreg (m : SregMove) (k : BitVec 2) (rm : RM16) : Statement (.reservedSreg m k rm) := by
  intro ext rest hw
  have h (b : BitVec 3) := modRM_encode16 b rm hw rest
  obtain rfl | rfl | rfl | rfl : k = 0 ∨ k = 1 ∨ k = 2 ∨ k = 3 := by clear hw; revert k; decide
  all_goals
    cases m
    · refine (Parser.map_ok (h _)).trans ?_; simp only [asRM16_digits]; rfl
    · refine (Parser.map_ok (h _)).trans ?_; simp only [asRM16_digits]; rfl

theorem pushReg (r : Reg16) : Statement (.pushReg r) := by
  intro ext rest _
  cases r <;> rfl

theorem popReg (r : Reg16) : Statement (.popReg r) := by
  intro ext rest _
  cases r <;> rfl

theorem pushSreg (sr : Sreg) : Statement (.pushSreg sr) := by
  intro ext rest _
  cases sr <;> rfl

theorem popSreg (sr : Sreg) : Statement (.popSreg sr) := by
  intro ext rest hw
  cases sr <;> first | rfl | exact absurd hw (by simp [Instr.wf])

theorem pushE (rm : RM16) : Statement (.pushE rm) := by
  intro ext rest hw
  refine (Parser.map_ok (modRM_encode16 6 rm hw rest)).trans ?_
  show Except.ok (Instr.pushE (asRM16 (RM16.digits rm)), rest) = _
  rw [asRM16_digits]

theorem popE (rm : RM16) : Statement (.popE rm) := by
  intro ext rest hw
  refine (Parser.map_ok (modRM_encode16 0 rm hw rest)).trans ?_
  show Except.ok (Instr.popE (asRM16 (RM16.digits rm)), rest) = _
  rw [asRM16_digits]

theorem xchg (f : XchgForm) : Statement (.xchg f) := by
  intro ext rest hw
  cases f with
  | b rm g =>
    refine (Parser.map_ok (modRM_encode8 g.code rm hw rest)).trans ?_
    simp only [asRM8_digits, Reg8.ofOct_code]
  | w rm g =>
    refine (Parser.map_ok (modRM_encode16 g.code rm hw rest)).trans ?_
    simp only [asRM16_digits, Reg16.ofOct_code]

theorem xchgAX (r : Reg16) : Statement (.xchgAX r) := by
  intro ext rest hw
  cases r <;> first | rfl | exact absurd hw (by simp [Instr.wf])

theorem nop : Statement (.nop) := by
  intro ext rest _
  rfl

theorem lea (g : Reg16) (rm : RM16) : Statement (.lea g rm) := by
  intro ext rest hw
  refine (Parser.map_ok (modRM_encode16 g.code rm hw rest)).trans ?_
  simp only [asRM16_digits, Reg16.ofOct_code]

theorem lds (g : Reg16) (rm : RM16) : Statement (.lds g rm) := by
  intro ext rest hw
  refine (Parser.map_ok (modRM_encode16 g.code rm hw rest)).trans ?_
  simp only [asRM16_digits, Reg16.ofOct_code]

theorem les (g : Reg16) (rm : RM16) : Statement (.les g rm) := by
  intro ext rest hw
  refine (Parser.map_ok (modRM_encode16 g.code rm hw rest)).trans ?_
  simp only [asRM16_digits, Reg16.ofOct_code]

theorem xlat : Statement (.xlat) := by
  intro ext rest _
  rfl

theorem inImm (a : Acc) (port : Byte) : Statement (.inImm a port) := by
  intro ext rest _
  cases a <;> rfl

theorem inDX (a : Acc) : Statement (.inDX a) := by
  intro ext rest _
  cases a <;> rfl

theorem outImm (port : Byte) (a : Acc) : Statement (.outImm port a) := by
  intro ext rest _
  cases a <;> rfl

theorem outDX (a : Acc) : Statement (.outDX a) := by
  intro ext rest _
  cases a <;> rfl

theorem lahf : Statement (.lahf) := by
  intro ext rest _
  rfl

theorem sahf : Statement (.sahf) := by
  intro ext rest _
  rfl

theorem pushf : Statement (.pushf) := by
  intro ext rest _
  rfl

theorem popf : Statement (.popf) := by
  intro ext rest _
  rfl

theorem cbw : Statement (.cbw) := by
  intro ext rest _
  rfl

theorem cwd : Statement (.cwd) := by
  intro ext rest _
  rfl

theorem add (f : AluForm) : Statement (.add f) := by
  intro ext rest hw
  exact decode_alu ext .o0 f hw rest

theorem adc (f : AluForm) : Statement (.adc f) := by
  intro ext rest hw
  exact decode_alu ext .o2 f hw rest

theorem sub (f : AluForm) : Statement (.sub f) := by
  intro ext rest hw
  exact decode_alu ext .o5 f hw rest

theorem sbb (f : AluForm) : Statement (.sbb f) := by
  intro ext rest hw
  exact decode_alu ext .o3 f hw rest

theorem cmp (f : AluForm) : Statement (.cmp f) := by
  intro ext rest hw
  exact decode_alu ext .o7 f hw rest

theorem incReg (r : Reg16) : Statement (.incReg r) := by
  intro ext rest _
  cases r <;> rfl

theorem incE (e : EOp) : Statement (.incE e) := by
  intro ext rest hw
  cases e with
  | b rm =>
    refine (Parser.map_ok (modRM_encode8 0 rm hw rest)).trans ?_
    show Except.ok (Instr.incE (.b (asRM8 (RM8.digits rm))), rest) = _
    rw [asRM8_digits]
  | w rm =>
    refine (Parser.map_ok (modRM_encode16 0 rm hw rest)).trans ?_
    show Except.ok (Instr.incE (.w (asRM16 (RM16.digits rm))), rest) = _
    rw [asRM16_digits]

theorem decReg (r : Reg16) : Statement (.decReg r) := by
  intro ext rest _
  cases r <;> rfl

theorem decE (e : EOp) : Statement (.decE e) := by
  intro ext rest hw
  cases e with
  | b rm =>
    refine (Parser.map_ok (modRM_encode8 1 rm hw rest)).trans ?_
    show Except.ok (Instr.decE (.b (asRM8 (RM8.digits rm))), rest) = _
    rw [asRM8_digits]
  | w rm =>
    refine (Parser.map_ok (modRM_encode16 1 rm hw rest)).trans ?_
    show Except.ok (Instr.decE (.w (asRM16 (RM16.digits rm))), rest) = _
    rw [asRM16_digits]

theorem neg (e : EOp) : Statement (.neg e) := by
  intro ext rest hw
  exact decode_unary ext .o3 .neg (by decide) (fun _ => rfl) (fun _ => rfl) e hw rest

theorem mul (e : EOp) : Statement (.mul e) := by
  intro ext rest hw
  exact decode_unary ext .o4 .mul (by decide) (fun _ => rfl) (fun _ => rfl) e hw rest

theorem imul (e : EOp) : Statement (.imul e) := by
  intro ext rest hw
  exact decode_unary ext .o5 .imul (by decide) (fun _ => rfl) (fun _ => rfl) e hw rest

theorem div (e : EOp) : Statement (.div e) := by
  intro ext rest hw
  exact decode_unary ext .o6 .div (by decide) (fun _ => rfl) (fun _ => rfl) e hw rest

theorem idiv (e : EOp) : Statement (.idiv e) := by
  intro ext rest hw
  exact decode_unary ext .o7 .idiv (by decide) (fun _ => rfl) (fun _ => rfl) e hw rest

theorem daa : Statement (.daa) := by
  intro ext rest _
  rfl

theorem das : Statement (.das) := by
  intro ext rest _
  rfl

theorem aaa : Statement (.aaa) := by
  intro ext rest _
  rfl

theorem aas : Statement (.aas) := by
  intro ext rest _
  rfl

theorem aam (i : Byte) : Statement (.aam i) := by
  intro ext rest _
  rfl

theorem aad (i : Byte) : Statement (.aad i) := by
  intro ext rest _
  rfl

theorem and (f : AluForm) : Statement (.and f) := by
  intro ext rest hw
  exact decode_alu ext .o4 f hw rest

theorem or (f : AluForm) : Statement (.or f) := by
  intro ext rest hw
  exact decode_alu ext .o1 f hw rest

theorem xor (f : AluForm) : Statement (.xor f) := by
  intro ext rest hw
  exact decode_alu ext .o6 f hw rest

theorem test (f : TestForm) : Statement (.test f) := by
  intro ext rest hw
  cases f with
  | ebGb rm g =>
    refine (Parser.map_ok (modRM_encode8 g.code rm hw rest)).trans ?_
    simp only [asRM8_digits, Reg8.ofOct_code]
  | ewGw rm g =>
    refine (Parser.map_ok (modRM_encode16 g.code rm hw rest)).trans ?_
    simp only [asRM16_digits, Reg16.ofOct_code]
  | alIb i => rfl
  | axIw i => exact Parser.map_ok (f := fun i => Instr.test (.axIw i)) (word_wordBytes i rest)
  | ebIb rm i =>
    rw [encode, List.cons_append, List.append_assoc]
    refine (Parser.bind_ok (modRM_encode8 0 rm hw (i :: rest))).trans ?_
    show Except.ok (Instr.test (.ebIb (asRM8 (RM8.digits rm)) i), rest) = _
    rw [asRM8_digits]
  | ewIw rm i =>
    rw [encode, List.cons_append, List.append_assoc]
    refine (Parser.bind_ok (modRM_encode16 0 rm hw (wordBytes i ++ rest))).trans ?_
    show Parser.map word (fun i => Instr.test (.ewIw (asRM16 (RM16.digits rm)) i)) (wordBytes i ++ rest) = _
    rw [asRM16_digits]
    exact Parser.map_ok (word_wordBytes i rest)

theorem not (e : EOp) : Statement (.not e) := by
  intro ext rest hw
  exact decode_unary ext .o2 .not (by decide) (fun _ => rfl) (fun _ => rfl) e hw rest

theorem rol (e : EOp) (c : ShiftCount) : Statement (.rol e c) := by
  intro ext rest hw
  exact decode_shift ext .o0 .rol rfl e c hw rest

theorem ror (e : EOp) (c : ShiftCount) : Statement (.ror e c) := by
  intro ext rest hw
  exact decode_shift ext .o1 .ror rfl e c hw rest

theorem rcl (e : EOp) (c : ShiftCount) : Statement (.rcl e c) := by
  intro ext rest hw
  exact decode_shift ext .o2 .rcl rfl e c hw rest

theorem rcr (e : EOp) (c : ShiftCount) : Statement (.rcr e c) := by
  intro ext rest hw
  exact decode_shift ext .o3 .rcr rfl e c hw rest

theorem shl (e : EOp) (c : ShiftCount) : Statement (.shl e c) := by
  intro ext rest hw
  exact decode_shift ext .o4 .shl rfl e c hw rest

theorem shr (e : EOp) (c : ShiftCount) : Statement (.shr e c) := by
  intro ext rest hw
  exact decode_shift ext .o5 .shr rfl e c hw rest

theorem sar (e : EOp) (c : ShiftCount) : Statement (.sar e c) := by
  intro ext rest hw
  exact decode_shift ext .o7 .sar rfl e c hw rest

theorem movsb : Statement (.movsb) := by
  intro ext rest _
  rfl

theorem movsw : Statement (.movsw) := by
  intro ext rest _
  rfl

theorem cmpsb : Statement (.cmpsb) := by
  intro ext rest _
  rfl

theorem cmpsw : Statement (.cmpsw) := by
  intro ext rest _
  rfl

theorem scasb : Statement (.scasb) := by
  intro ext rest _
  rfl

theorem scasw : Statement (.scasw) := by
  intro ext rest _
  rfl

theorem lodsb : Statement (.lodsb) := by
  intro ext rest _
  rfl

theorem lodsw : Statement (.lodsw) := by
  intro ext rest _
  rfl

theorem stosb : Statement (.stosb) := by
  intro ext rest _
  rfl

theorem stosw : Statement (.stosw) := by
  intro ext rest _
  rfl

theorem jmpShort (rel : Byte) : Statement (.jmpShort rel) := by
  intro ext rest _
  rfl

theorem jmpNear (rel : Word) : Statement (.jmpNear rel) := by
  intro ext rest _
  exact Parser.map_ok (word_wordBytes rel rest)

theorem jmpFar (off seg : Word) : Statement (.jmpFar off seg) := by
  intro ext rest _
  rw [encode, List.cons_append, List.append_assoc]
  refine (Parser.bind_ok (f := fun off => word.map fun seg => Instr.jmpFar off seg)
    (word_wordBytes off (wordBytes seg ++ rest))).trans ?_
  exact Parser.map_ok (f := fun seg => Instr.jmpFar off seg) (word_wordBytes seg rest)

theorem jmpE (rm : RM16) : Statement (.jmpE rm) := by
  intro ext rest hw
  refine (Parser.map_ok (modRM_encode16 4 rm hw rest)).trans ?_
  show Except.ok (Instr.jmpE (asRM16 (RM16.digits rm)), rest) = _
  rw [asRM16_digits]

theorem jmpM (rm : RM16) : Statement (.jmpM rm) := by
  intro ext rest hw
  refine (Parser.map_ok (modRM_encode16 5 rm hw rest)).trans ?_
  show Except.ok (Instr.jmpM (asRM16 (RM16.digits rm)), rest) = _
  rw [asRM16_digits]

theorem callNear (rel : Word) : Statement (.callNear rel) := by
  intro ext rest _
  exact Parser.map_ok (word_wordBytes rel rest)

theorem callFar (off seg : Word) : Statement (.callFar off seg) := by
  intro ext rest _
  rw [encode, List.cons_append, List.append_assoc]
  refine (Parser.bind_ok (f := fun off => word.map fun seg => Instr.callFar off seg)
    (word_wordBytes off (wordBytes seg ++ rest))).trans ?_
  exact Parser.map_ok (f := fun seg => Instr.callFar off seg) (word_wordBytes seg rest)

theorem callE (rm : RM16) : Statement (.callE rm) := by
  intro ext rest hw
  refine (Parser.map_ok (modRM_encode16 2 rm hw rest)).trans ?_
  show Except.ok (Instr.callE (asRM16 (RM16.digits rm)), rest) = _
  rw [asRM16_digits]

theorem callM (rm : RM16) : Statement (.callM rm) := by
  intro ext rest hw
  refine (Parser.map_ok (modRM_encode16 3 rm hw rest)).trans ?_
  show Except.ok (Instr.callM (asRM16 (RM16.digits rm)), rest) = _
  rw [asRM16_digits]

theorem ret : Statement (.ret) := by
  intro ext rest _
  rfl

theorem retImm (n : Word) : Statement (.retImm n) := by
  intro ext rest _
  exact Parser.map_ok (word_wordBytes n rest)

theorem retf : Statement (.retf) := by
  intro ext rest _
  rfl

theorem retfImm (n : Word) : Statement (.retfImm n) := by
  intro ext rest _
  exact Parser.map_ok (word_wordBytes n rest)

theorem jo (rel : Byte) : Statement (.jo rel) := by
  intro ext rest _
  rfl

theorem jno (rel : Byte) : Statement (.jno rel) := by
  intro ext rest _
  rfl

theorem jb (rel : Byte) : Statement (.jb rel) := by
  intro ext rest _
  rfl

theorem jnb (rel : Byte) : Statement (.jnb rel) := by
  intro ext rest _
  rfl

theorem jz (rel : Byte) : Statement (.jz rel) := by
  intro ext rest _
  rfl

theorem jnz (rel : Byte) : Statement (.jnz rel) := by
  intro ext rest _
  rfl

theorem jbe (rel : Byte) : Statement (.jbe rel) := by
  intro ext rest _
  rfl

theorem ja (rel : Byte) : Statement (.ja rel) := by
  intro ext rest _
  rfl

theorem js (rel : Byte) : Statement (.js rel) := by
  intro ext rest _
  rfl

theorem jns (rel : Byte) : Statement (.jns rel) := by
  intro ext rest _
  rfl

theorem jp (rel : Byte) : Statement (.jp rel) := by
  intro ext rest _
  rfl

theorem jnp (rel : Byte) : Statement (.jnp rel) := by
  intro ext rest _
  rfl

theorem jl (rel : Byte) : Statement (.jl rel) := by
  intro ext rest _
  rfl

theorem jge (rel : Byte) : Statement (.jge rel) := by
  intro ext rest _
  rfl

theorem jle (rel : Byte) : Statement (.jle rel) := by
  intro ext rest _
  rfl

theorem jg (rel : Byte) : Statement (.jg rel) := by
  intro ext rest _
  rfl

theorem loop (rel : Byte) : Statement (.loop rel) := by
  intro ext rest _
  rfl

theorem loopz (rel : Byte) : Statement (.loopz rel) := by
  intro ext rest _
  rfl

theorem loopnz (rel : Byte) : Statement (.loopnz rel) := by
  intro ext rest _
  rfl

theorem jcxz (rel : Byte) : Statement (.jcxz rel) := by
  intro ext rest _
  rfl

theorem int (n : Byte) : Statement (.int n) := by
  intro ext rest _
  rfl

theorem int3 : Statement (.int3) := by
  intro ext rest _
  rfl

theorem into : Statement (.into) := by
  intro ext rest _
  rfl

theorem iret : Statement (.iret) := by
  intro ext rest _
  rfl

theorem clc : Statement (.clc) := by
  intro ext rest _
  rfl

theorem stc : Statement (.stc) := by
  intro ext rest _
  rfl

theorem cmc : Statement (.cmc) := by
  intro ext rest _
  rfl

theorem cld : Statement (.cld) := by
  intro ext rest _
  rfl

theorem std : Statement (.std) := by
  intro ext rest _
  rfl

theorem cli : Statement (.cli) := by
  intro ext rest _
  rfl

theorem sti : Statement (.sti) := by
  intro ext rest _
  rfl

theorem hlt : Statement (.hlt) := by
  intro ext rest _
  rfl

theorem wait : Statement (.wait) := by
  intro ext rest _
  rfl

theorem esc (x : BitVec 3) (reg : BitVec 3) (rm : RM16) : Statement (.esc x reg rm) := by
  intro ext rest hw
  have h := modRM_encode16 reg rm hw rest
  have hx : Oct.toBits (Oct.ofBits reg) = reg := Oct.toBits_ofBits reg
  have key : ∀ o : Oct, Parser.map modRM (fun p : Oct × RM Oct => Instr.esc o.toBits p.1.toBits (asRM16 p.2))
      (RM16.encode reg rm ++ rest) = .ok (.esc o.toBits reg rm, rest) := by
    intro o
    rw [Parser.map_ok h]
    simp only [hx, asRM16_digits]
  obtain ⟨o, rfl⟩ : ∃ o : Oct, o.toBits = x := ⟨Oct.ofBits x, Oct.toBits_ofBits x⟩
  cases o <;> exact key _

theorem pusha : Statement (.pusha) := by
  intro ext rest hw
  obtain rfl : ext = true := hw
  rfl

theorem popa : Statement (.popa) := by
  intro ext rest hw
  obtain rfl : ext = true := hw
  rfl

theorem bound (g : Reg16) (rm : RM16) : Statement (.bound g rm) := by
  intro ext rest hw
  obtain ⟨rfl, hw⟩ := Bool.and_eq_true_iff.1 hw
  refine (Parser.map_ok (modRM_encode16 g.code rm hw rest)).trans ?_
  simp only [asRM16_digits, Reg16.ofOct_code]

theorem pushIw (i : Word) : Statement (.pushIw i) := by
  intro ext rest hw
  obtain rfl : ext = true := hw
  exact Parser.map_ok (word_wordBytes i rest)

theorem pushIbs (i : Byte) : Statement (.pushIbs i) := by
  intro ext rest hw
  obtain rfl : ext = true := hw
  rfl

theorem imulImm (g : Reg16) (rm : RM16) (k : ImulImm) : Statement (.imulImm g rm k) := by
  intro ext rest hw
  obtain ⟨rfl, hw⟩ := Bool.and_eq_true_iff.1 hw
  cases k with
  | iw k =>
    rw [encode, List.cons_append, List.append_assoc]
    refine (Parser.bind_ok (modRM_encode16 g.code rm hw (wordBytes k ++ rest))).trans ?_
    refine (Parser.map_ok (word_wordBytes k rest)).trans ?_
    simp only [asRM16_digits, Reg16.ofOct_code]
  | ibs k =>
    rw [encode, List.cons_append, List.append_assoc]
    refine (Parser.bind_ok (modRM_encode16 g.code rm hw (k :: rest))).trans ?_
    show Except.ok (Instr.imulImm (.ofOct (Oct.ofBits g.code)) (asRM16 (RM16.digits rm)) (.ibs k), rest) = _
    simp only [asRM16_digits, Reg16.ofOct_code]

theorem insb : Statement (.insb) := by
  intro ext rest hw
  obtain rfl : ext = true := hw
  rfl

theorem insw : Statement (.insw) := by
  intro ext rest hw
  obtain rfl : ext = true := hw
  rfl

theorem outsb : Statement (.outsb) := by
  intro ext rest hw
  obtain rfl : ext = true := hw
  rfl

theorem outsw : Statement (.outsw) := by
  intro ext rest hw
  obtain rfl : ext = true := hw
  rfl

theorem enter (size : Word) (level : Byte) : Statement (.enter size level) := by
  intro ext rest hw
  obtain rfl : ext = true := hw
  rw [encode, List.cons_append, List.append_assoc]
  exact Parser.bind_ok (f := fun n => byte.map fun l => Instr.enter n l) (word_wordBytes size (level :: rest))

theorem leave : Statement (.leave) := by
  intro ext rest hw
  obtain rfl : ext = true := hw
  rfl

theorem undefByte (op : Byte) : Statement (.undefByte op) := by
  intro ext rest hw
  simp only [Instr.wf, isUndefByte, isExt186Op, List.mem_cons, List.not_mem_nil, or_false, Bool.or_eq_true,
    Bool.and_eq_true, Bool.not_eq_true', decide_eq_true_eq] at hw
  rcases hw with (h | h | h | h | h | h | h | h) | ⟨rfl, (h | h | h | h | h | h | h | h | h | h | h | h | h)⟩ <;>
    subst h <;> first | rfl | (cases ext <;> rfl)

theorem undefSlot (op : Byte) (reg : BitVec 3) (rm : RM16) : Statement (.undefSlot op reg rm) := by
  intro ext rest hw
  obtain ⟨hs, hm⟩ := Bool.and_eq_true_iff.1 hw
  obtain ⟨o, rfl⟩ : ∃ o : Oct, o.toBits = reg := ⟨Oct.ofBits reg, Oct.toBits_ofBits reg⟩
  have h := modRM_encode16 o.toBits rm hm rest
  rw [Oct.ofBits_toBits] at h
  have hop : op = 0xC0#8 ∨ op = 0xC1#8 ∨ op = 0xD0#8 ∨ op = 0xD1#8 ∨ op = 0xD2#8 ∨ op = 0xD3#8 ∨ op = 0xF6#8 ∨
      op = 0xF7#8 ∨ op = 0xFE#8 ∨ op = 0xFF#8 ∨ op = 0x8F#8 ∨ op = 0xC6#8 ∨ op = 0xC7#8 := by
    simp [isUndefSlot] at hs
    tauto
  rcases hop with rfl | rfl | rfl | rfl | rfl | rfl | rfl | rfl | rfl | rfl | rfl | rfl | rfl <;> cases o <;>
    first
    | exact absurd hs (by decide)
    | (refine (Parser.map_ok h).trans ?_
       show Except.ok (Instr.undefSlot _ _ (asRM16 (RM16.digits rm)), rest) = _
       rw [asRM16_digits])
    | (refine (Parser.bind_ok h).trans ?_
       show Except.ok (Instr.undefSlot _ _ (asRM16 (RM16.digits rm)), rest) = _
       rw [asRM16_digits])

end Sys2Proof.Laws.RoundTrip
end

