-- ==== Sys2Proof/Safety.lean ====
section
/-! DEFINITION. What the statements are made of: the machine's invariant, which instructions may write which
system state, and what a step keeps (spec/10_state.md R37, R38, R54; spec/20_memory.md R101, R102). -/

namespace Sys2Proof.Machine

/-! ## The invariant -/

/-- The mode state is a row of the mode table (R54, R652); a text row says nothing of width and height. -/
def VideoMode.consistent (m : VideoMode) : Bool :=
  match modeRow m.number with
  | none => false
  | some r =>
    m.cols == r.cols && m.rows == r.rows && m.base == r.base && m.text == r.pixels.isNone &&
      r.pixels.all fun p => m.width == p.1 && m.height == p.2

/-- The planes are in canonical form, 64 KiB each (R49). -/
def Planes.wf (p : Planes) : Bool :=
  Table.wf Config.unwrittenPlane 0x10000 p.p0 && Table.wf Config.unwrittenPlane 0x10000 p.p1 &&
    Table.wf Config.unwrittenPlane 0x10000 p.p2 && Table.wf Config.unwrittenPlane 0x10000 p.p3

/-- The adapter's register files are in canonical form, at their sizes (R45 to R49). -/
def Video.wf (v : Video) : Bool :=
  v.mode.consistent && Table.wf (0#8, 0#8) 16 v.mode.cursor && Table.wf 0#8 32 v.crtc && Table.wf 0#8 256 v.seq &&
    Table.wf 0#8 256 v.gc && Table.wf 0#24 256 v.dac.entries && Table.wf 0#24 16 v.attr.palette &&
    Table.wf 0#8 32 v.attr.attr && v.planes.wf

/-- A backing store has no byte past its size (R600, R610). -/
def Drive.wf (d : Drive) : Bool := Table.wf 0#8 d.size d.backing

/-- The drive and status tables are in canonical form, with 256 entries (R44). -/
def Disk.wf (d : Disk) : Bool :=
  Table.wf Drive.empty 256 d.drive && d.drive.all (fun e => e.2.wf) && Table.wf 0#8 256 d.lastAh &&
    Table.wf false 256 d.lastCf

/-- Every table of the state is in its canonical form, and the video mode is a listed one. -/
structure State.DataInv (s : State) : Prop where
  ram : Memory.wf s.ram = true
  readonly : sortedWf (2 ^ 20) s.readonly = true
  shadow : Table.wf 0#8 0x10000 s.shadow = true
  disk : s.disk.wf = true
  video : s.video.wf = true

/-- The invariant between steps: the tables, and both prefix slots empty (R38), after a Fatal instruction too (DESIGN
CHOICE, log 16), and IP0 forgotten (log 15). -/
structure State.Inv (s : State) : Prop where
  data : s.DataInv
  segOverride : s.segOverride = none
  rep : s.rep = none
  instrIP : s.instrIP = 0x0000#16

/-! ## Which instructions may write system state (R33, R37, R40) -/

/-- The instructions that may run the interrupt sequence (R764). -/
def mayInterrupt : Instr → Bool
  | .int _ | .int3 | .into | .div _ | .idiv _ | .aam _ | .bound _ _ => true
  | _ => false

/-- POPF and IRET, which load all nine flags. -/
def loadsFlags : Instr → Bool
  | .popf | .iret => true
  | _ => false

/-- TF: POPF, IRET and the interrupt sequence (R37). -/
def mayWriteTF (i : Instr) : Bool := loadsFlags i || mayInterrupt i

/-- IF: CLI, STI, POPF, IRET and the interrupt sequence (R37). -/
def mayWriteIF (i : Instr) : Bool := i == .cli || i == .sti || loadsFlags i || mayInterrupt i

/-- DF: CLD, STD, POPF and IRET (R37). -/
def mayWriteDF (i : Instr) : Bool := i == .cld || i == .std || loadsFlags i

/-- The far jumps, calls and returns. -/
def isFarTransfer : Instr → Bool
  | .jmpFar _ _ | .jmpM _ | .callFar _ _ | .callM _ | .retf | .retfImm _ | .iret => true
  | _ => false

/-- CS: the far transfers and the interrupt sequence (R33). -/
def mayWriteCS (i : Instr) : Bool := isFarTransfer i || mayInterrupt i

/-- An encoding the spec calls Fatal (R199). -/
def isFatal : Instr → Bool
  | .movCS _ | .reservedSreg _ _ _ | .undefByte _ | .undefSlot _ _ _ => true
  | .lea _ (.reg _) | .lds _ (.reg _) | .les _ (.reg _) | .jmpM (.reg _) | .callM (.reg _) | .bound _ (.reg _) => true
  | _ => false

/-- The run state: HLT, the Fatal encodings, and the interrupt sequence (R40). -/
def mayWriteRun (i : Instr) : Bool := i == .hlt || isFatal i || mayInterrupt i

/-! ## What an instruction keeps -/

/-- The state outside the CPU and memory: the PIC, the disks, the adapter but for its planes and latch, the
shadow bytes, the read-only mask, the host's fields and its batch, the parameters and the prefix slots. -/
structure KeepsDevices (s t : State) : Prop where
  pic : t.pic = s.pic
  disk : t.disk = s.disk
  video : t.video.registers = s.video.registers
  shadow : t.shadow = s.shadow
  readonly : t.readonly = s.readonly
  hostRunning : t.hostRunning = s.hostRunning
  hardReset : t.hardReset = s.hardReset
  bootDrive : t.bootDrive = s.bootDrive
  batch : t.batch = s.batch
  events : t.events = s.events
  params : t.params = s.params
  segOverride : t.segOverride = s.segOverride
  rep : t.rep = s.rep
  instrIP : t.instrIP = s.instrIP

/-- All memory but the bytes of a list: what a read answers, in the aperture whatever the read mode and the read map
select; RAM, under the aperture too; and the four planes. -/
structure KeepsMemory (mem : List Linear) (s t : State) : Prop where
  bytes : ∀ a, a ∉ mem → peek8 a t = peek8 a s
  ram : ∀ a, a ∉ mem ∨ inAperture a = true → ramGet t.ram a = ramGet s.ram a
  planes : (∀ a ∈ mem, inAperture a = false) → t.video.planes = s.video.planes
  planeBytes : ∀ (i : BitVec 2) (a : Linear), inAperture a = true → a ∉ mem →
    planeGet (t.video.planes.plane i) (apertureOffset a) = planeGet (s.video.planes.plane i) (apertureOffset a)

/-- What an instruction may change: registers, byte registers (whose other halves stay), segment registers,
flags, the bytes it stores to, IP and the run state; and the bytes it reads, which load the latch when they are
in the aperture (R110). -/
structure Writes where
  regs : List Reg16 := []
  bytes : List Reg8 := []
  sregs : List Sreg := []
  flags : List Flag := []
  mem : List Linear := []
  reads : List Linear := []
  ip : Bool := false
  run : Bool := false

/-- The frame: everything that `w` does not name is unchanged, but for the count of free values drawn. -/
structure Frame (w : Writes) (s t : State) : Prop where
  regs : ∀ r, r ∉ w.regs → (∀ b ∈ w.bytes, fullReg b ≠ r) → reg16 r t = reg16 r s
  halves : ∀ b, fullReg b ∉ w.regs → b ∉ w.bytes → reg8 b t = reg8 b s
  sregs : ∀ k, k ∉ w.sregs → sreg k t = sreg k s
  flags : ∀ k, k ∉ w.flags → flag k t = flag k s
  memory : KeepsMemory w.mem s t
  latch : (∀ a ∈ w.reads, inAperture a = false) → t.video.latch = s.video.latch
  ip : w.ip = false → t.ip = s.ip
  run : w.run = false → t.run = s.run
  devices : KeepsDevices s t

/-- Memory is the same in both states: every byte reads the same, and RAM, under the aperture too, and the four planes
hold the same. -/
structure SameMemory (t u : State) : Prop where
  bytes : ∀ a, peek8 a t = peek8 a u
  ram : ∀ a, ramGet t.ram a = ramGet u.ram a
  planes : t.video.planes = u.video.planes

/-- The instruction completes, in a state with the property. -/
def Completes (i : Instr) (s : State) (p : State → Prop) : Prop := ∃ t, exec i s = .next t ∧ p t

/-! ## The value of an operand, and where a result goes -/

/-- The two bytes of a word at an address. -/
def wordAt (a : Linear) : List Linear := [a, a + 1]

/-- The value of an rm operand (R186), from the state the instruction starts in. -/
def rm8Value (rm : RM8) (s : State) : Byte :=
  match rm with
  | .reg r => reg8 r s
  | .mem m => peek8 (ea m s) s

def rm16Value (rm : RM16) (s : State) : Word :=
  match rm with
  | .reg r => reg16 r s
  | .mem m => peek16 (ea m s) s

/-- The bytes an rm operand's read touches. -/
def rmReads8 (rm : RM8) (s : State) : List Linear :=
  match rm with
  | .reg _ => []
  | .mem m => [ea m s]

def rmReads16 (rm : RM16) (s : State) : List Linear :=
  match rm with
  | .reg _ => []
  | .mem m => wordAt (ea m s)

/-- The state an rm operand's read leaves: the latch loaded, if it is in the aperture (R110). -/
def afterRead8 (rm : RM8) (s : State) : State :=
  match rm with
  | .reg _ => s
  | .mem m => touch8 (ea m s) s

def afterRead16 (rm : RM16) (s : State) : State :=
  match rm with
  | .reg _ => s
  | .mem m => touch16 (ea m s) s

/-- A byte result at an rm operand, u being the state the store happens in: the register holds it, or memory
is as after `write8` at the operand's address. -/
def ResultAt8 (rm : RM8) (v : Byte) (s u t : State) : Prop :=
  match rm with
  | .reg r => reg8 r t = v
  | .mem m => SameMemory t (write8 (ea m s) v u)

/-- A word result at an rm operand. -/
def ResultAt16 (rm : RM16) (v : Word) (s u t : State) : Prop :=
  match rm with
  | .reg r => reg16 r t = v
  | .mem m => SameMemory t (write16 (ea m s) v u)

/-- What a result at an rm operand writes: the register, or the byte or two bytes at the operand's address. -/
def dest8 (rm : RM8) (s : State) (flags : List Flag) (reads : List Linear) : Writes :=
  match rm with
  | .reg r => { bytes := [r], flags := flags, reads := reads }
  | .mem m => { mem := [ea m s], flags := flags, reads := reads }

def dest16 (rm : RM16) (s : State) (flags : List Flag) (reads : List Linear) : Writes :=
  match rm with
  | .reg r => { regs := [r], flags := flags, reads := reads }
  | .mem m => { mem := wordAt (ea m s), flags := flags, reads := reads }

/-! ## The forms of R303 -/

/-- The destination, the source's value, and the operand the ModR/M names (AL or AX in the accumulator forms). -/
def aluDst8 : AluForm8 → RM8
  | .ebGb rm _ | .ebIb rm _ | .ebIbDup rm _ => rm
  | .gbEb g _ => .reg g
  | .alIb _ => .reg .al

def aluSrc8 (f : AluForm8) (s : State) : Byte :=
  match f with
  | .ebGb _ g => reg8 g s
  | .gbEb _ rm => rm8Value rm s
  | .alIb i | .ebIb _ i | .ebIbDup _ i => i

def aluOperand8 : AluForm8 → RM8
  | .ebGb rm _ | .ebIb rm _ | .ebIbDup rm _ | .gbEb _ rm => rm
  | .alIb _ => .reg .al

def aluDst16 : AluForm16 → RM16
  | .ewGw rm _ | .ewIw rm _ | .ewIbs rm _ => rm
  | .gwEw g _ => .reg g
  | .axIw _ => .reg .ax

def aluSrc16 (f : AluForm16) (s : State) : Word :=
  match f with
  | .ewGw _ g => reg16 g s
  | .gwEw _ rm => rm16Value rm s
  | .axIw i | .ewIw _ i => i
  | .ewIbs _ i => i.signExtend 16

def aluOperand16 : AluForm16 → RM16
  | .ewGw rm _ | .ewIw rm _ | .ewIbs rm _ | .gwEw _ rm => rm
  | .axIw _ => .reg .ax

/-- A binary operation's result at the destination, its flags, and the frame. -/
def AluResult (f : AluForm) (r : {w : Nat} → BitVec w → BitVec w → BitVec w)
    (flagsAre : {w : Nat} → BitVec w → BitVec w → State → Prop) (s t : State) : Prop :=
  match f with
  | .byte f =>
    ResultAt8 (aluDst8 f) (r (rm8Value (aluDst8 f) s) (aluSrc8 f s)) s (afterRead8 (aluOperand8 f) s) t ∧
      flagsAre (rm8Value (aluDst8 f) s) (aluSrc8 f s) t ∧ Frame (dest8 (aluDst8 f) s arithFlags (rmReads8 (aluOperand8 f) s)) s t
  | .word f =>
    ResultAt16 (aluDst16 f) (r (rm16Value (aluDst16 f) s) (aluSrc16 f s)) s (afterRead16 (aluOperand16 f) s) t ∧
      flagsAre (rm16Value (aluDst16 f) s) (aluSrc16 f s) t ∧ Frame (dest16 (aluDst16 f) s arithFlags (rmReads16 (aluOperand16 f) s)) s t

/-- A binary operation that writes its flags and nothing else. -/
def AluTested (f : AluForm) (flagsAre : {w : Nat} → BitVec w → BitVec w → State → Prop) (s t : State) : Prop :=
  match f with
  | .byte f =>
    flagsAre (rm8Value (aluDst8 f) s) (aluSrc8 f s) t ∧ Frame { flags := arithFlags, reads := rmReads8 (aluOperand8 f) s } s t
  | .word f =>
    flagsAre (rm16Value (aluDst16 f) s) (aluSrc16 f s) t ∧ Frame { flags := arithFlags, reads := rmReads16 (aluOperand16 f) s } s t

/-- A unary operation's result, its flags, and the frame; `flags` are the flags it may change. -/
def UnaryResult (e : EOp) (r : {w : Nat} → BitVec w → BitVec w) (flagsAre : {w : Nat} → BitVec w → State → Prop)
    (flags : List Flag) (s t : State) : Prop :=
  match e with
  | .b rm =>
    ResultAt8 rm (r (rm8Value rm s)) s (afterRead8 rm s) t ∧ flagsAre (rm8Value rm s) t ∧
      Frame (dest8 rm s flags (rmReads8 rm s)) s t
  | .w rm =>
    ResultAt16 rm (r (rm16Value rm s)) s (afterRead16 rm s) t ∧ flagsAre (rm16Value rm s) t ∧
      Frame (dest16 rm s flags (rmReads16 rm s)) s t

/-! ## Flags after an instruction -/

/-- `SZP(r)` holds (R302). -/
structure SzpAre {w : Nat} (r : BitVec w) (t : State) : Prop where
  zf : flag .zf t = (r == 0)
  sf : flag .sf t = r.msb
  pf : flag .pf t = parity8 r

/-- The flags of `a + b + c` (R300). -/
structure AddFlagsAre {w : Nat} (a b : BitVec w) (c : Bool) (t : State) : Prop where
  cf : flag .cf t = decide (2 ^ w ≤ a.toNat + b.toNat + c.toNat)
  of : flag .of t = (a.msb == b.msb && a.msb != (addResult a b c).msb)
  af : flag .af t = (a ^^^ b ^^^ addResult a b c).getLsbD 4
  szp : SzpAre (addResult a b c) t

/-- The flags of `a - b - c` (R301). -/
structure SubFlagsAre {w : Nat} (a b : BitVec w) (c : Bool) (t : State) : Prop where
  cf : flag .cf t = decide (a.toNat < b.toNat + c.toNat)
  of : flag .of t = (a.msb != b.msb && a.msb != (subResult a b c).msb)
  af : flag .af t = (a ^^^ b ^^^ subResult a b c).getLsbD 4
  szp : SzpAre (subResult a b c) t

/-- The flags of INC and DEC, which leave CF (R309, R310). -/
structure IncFlagsAre {w : Nat} (d : BitVec w) (t : State) : Prop where
  of : flag .of t = (!d.msb && (d + 1).msb)
  af : flag .af t = (d ^^^ 1 ^^^ (d + 1)).getLsbD 4
  szp : SzpAre (d + 1) t

structure DecFlagsAre {w : Nat} (d : BitVec w) (t : State) : Prop where
  of : flag .of t = (d.msb && !(d - 1).msb)
  af : flag .af t = (d ^^^ 1 ^^^ (d - 1)).getLsbD 4
  szp : SzpAre (d - 1) t

/-- The flags of a logic result (R370); AF is free. -/
structure LogicFlagsAre {w : Nat} (r : BitVec w) (t : State) : Prop where
  cf : flag .cf t = false
  of : flag .of t = false
  szp : SzpAre r t

/-! ## The stack and the interrupt sequence -/

/-- The address of the word a push stores to (R230). -/
def stackBelow (s : State) : Linear := lin (sreg .ss s) (reg16 .sp s - 2)

/-- A push of v (R230), u being the state its store happens in: SP, memory, and the frame. -/
structure Pushed (v : Word) (reads : List Linear) (u s t : State) : Prop where
  sp : reg16 .sp t = reg16 .sp s - 2
  mem : SameMemory t (write16 (stackBelow s) v u)
  frame : Frame { regs := [.sp], mem := wordAt (stackBelow s), reads := reads } s t

/-- The addresses of the three words of an interrupt frame: FLAGS, CS and IP (R760). -/
def frameFlags (s : State) : Linear := lin (sreg .ss s) (reg16 .sp s - 2)
def frameCS (s : State) : Linear := lin (sreg .ss s) (reg16 .sp s - 4)
def frameIP (s : State) : Linear := lin (sreg .ss s) (reg16 .sp s - 6)

/-- Memory with the interrupt frame stored, from the state u: FLAGS, then CS, then the return IP (R760). -/
def withFrame (ret : Word) (s u : State) : State :=
  write16 (frameIP s) ret (write16 (frameCS s) (sreg .cs s) (write16 (frameFlags s) (flagsWord s) u))

/-- The address of vector n (R761). -/
def vectorAt (n : Byte) : Linear := lin 0 (4 * n.setWidth 16)

/-- What the interrupt sequence writes. -/
def vectoredWrites (n : Byte) (free : List Flag) (reads : List Linear) (s : State) : Writes where
  regs := [.sp]
  sregs := [.cs]
  flags := [.if, .tf] ++ free
  mem := wordAt (frameFlags s) ++ wordAt (frameCS s) ++ wordAt (frameIP s)
  reads := reads ++ wordAt (vectorAt n) ++ wordAt (vectorAt n + 2)
  ip := true
  run := true

/-- The vectored interrupt sequence (R760), u being the state the pushes happen in: the frame stored, IP and CS
from the vector, IF and TF clear, and nothing else changed but the flags of `free`. -/
structure Vectored (n : Byte) (ret : Word) (free : List Flag) (reads : List Linear) (u s t : State) : Prop where
  sp : reg16 .sp t = reg16 .sp s - 6
  mem : SameMemory t (withFrame ret s u)
  ip : t.ip = peek16 (vectorAt n) (withFrame ret s u)
  cs : sreg .cs t = peek16 (vectorAt n + 2) (withFrame ret s u)
  ifClear : flag .if t = false
  tfClear : flag .tf t = false
  run : t.run = .running
  frame : Frame (vectoredWrites n free reads s) s t

/-- The vectors a short circuit serves in this state (R762). -/
def shortCircuited (n : Byte) (s : State) : Bool :=
  n == 0x10#8 && s.params.int10ShortCircuit.contains (reg8 .ah s) || n == 0x13#8 && s.params.int13ShortCircuit

/-! ## The spec's tables written out -/

/-- `num_bytes` as R183 gives it, from mod and rm. -/
def numBytes (b : Byte) : Nat :=
  match (b.extractLsb' 6 2).toNat with
  | 0 => if (b.extractLsb' 0 3).toNat = 6 then 3 else 1
  | 1 => 2
  | 2 => 3
  | _ => 1

/-- The sum of registers R181 gives for a base code. -/
def baseSum (b : EaBase) (s : State) : Word :=
  match b with
  | .bxsi => reg16 .bx s + reg16 .si s
  | .bxdi => reg16 .bx s + reg16 .di s
  | .bpsi => reg16 .bp s + reg16 .si s
  | .bpdi => reg16 .bp s + reg16 .di s
  | .si => reg16 .si s
  | .di => reg16 .di s
  | .bp => reg16 .bp s
  | .bx => reg16 .bx s

/-! ## The disk service -/

/-- What every served INT 13h call leaves (R611, R627): the CPU goes on at the next instruction; only AX, CX, DX, BX
and CF may change; the drive's last status is the call's, and the other drives' stay; of the rest only the drives and
memory, which each call's statement gives, may change. -/
structure DiskServed (s t : State) : Prop where
  ip : t.ip = s.ip
  run : t.run = .running
  sregs : t.sregs = s.sregs
  flags : ∀ k, k ≠ .cf → flag k t = flag k s
  regs : ∀ r, r ∉ [Reg16.ax, .cx, .dx, .bx] → reg16 r t = reg16 r s
  lastAh : ∀ n : Byte, t.disk.lastAh.get 0#8 n.toNat =
    if n = reg8 .dl s then reg8 .ah t else s.disk.lastAh.get 0#8 n.toNat
  lastCf : ∀ n : Byte, t.disk.lastCf.get false n.toNat =
    if n = reg8 .dl s then flag .cf t else s.disk.lastCf.get false n.toNat
  devices : KeepsDevices (s.setDisk t.disk) t

/-- The mirror of AH at 0x474 for a fixed disk (R627), on the memory of u. -/
def mirrored (d ah : Byte) (u : State) : State := if d.msb then write8 0x00474#20 ah u else u

end Sys2Proof.Machine
end

