-- ==== Sys2Proof/Certificates/Slice0/Obligations.lean ====
section
/-! DEFINITION. The statements for the provers. Each docstring names the rules of spec/ it rests on. -/

open Sys2Proof Sys2Proof.Machine

/-! ## Encoding -/

/-- Words written out from R181 and R195 to R198 decode to the instructions they stand for. That the byte 60 is one
Fatal byte with EXT186 false is read from the spec by inference (log 11). -/
def Obligations.SpecWordsDecode : Prop :=
  decode false [0xB8#8, 0x34#8, 0x12#8] = .ok (.movRegImm (.w .ax 0x1234#16), []) ∧
  decode false [0x89#8, 0xC3#8] = .ok (.mov (.ewGw (.reg .bx) .ax), []) ∧
  decode false [0xC6#8, 0x06#8, 0x00#8, 0x01#8, 0xFF#8] = .ok (.movEImm (.b (.mem (.direct 0x0100#16)) 0xFF#8), []) ∧
  decode false [0x83#8, 0xC0#8, 0xFF#8] = .ok (.add (.word (.ewIbs (.reg .ax) 0xFF#8)), []) ∧
  decode false [0x8D#8, 0x40#8, 0x05#8] = .ok (.lea .ax (.mem (.disp8 .bxsi 0x05#8)), []) ∧
  decode false [0xF6#8, 0x86#8, 0x10#8, 0x20#8, 0x7F#8] = .ok (.test (.ebIb (.mem (.disp16 .bp 0x2010#16)) 0x7F#8), []) ∧
  decode false [0xD3#8, 0xE8#8] = .ok (.shr (.w (.reg .ax)) .cl, []) ∧
  decode false [0xA5#8] = .ok (.movsw, []) ∧
  decode false [0xEA#8, 0x5B#8, 0xE0#8, 0x00#8, 0xF0#8] = .ok (.jmpFar 0xE05B#16 0xF000#16, []) ∧
  decode false [0x7C#8, 0xFE#8] = .ok (.jl 0xFE#8, []) ∧
  decode false [0xCD#8, 0x13#8] = .ok (.int 0x13#8, []) ∧
  decode false [0xD9#8, 0x06#8, 0x00#8, 0x01#8] = .ok (.esc 1#3 0#3 (.mem (.direct 0x0100#16)), []) ∧
  decode false [0xFF#8, 0xFF#8] = .ok (.undefSlot 0xFF#8 7#3 (.reg .di), []) ∧
  decode false [0x60#8] = .ok (.undefByte 0x60#8, []) ∧
  decode true [0xC8#8, 0x04#8, 0x00#8, 0x01#8] = .ok (.enter 0x0004#16 0x01#8, [])

/-- Decoding the bytes of any well-formed instruction, whatever follows them, gives the instruction. With EXT186 false
an 80186 opcode is one Fatal byte (log 11). -/
def Obligations.DecodeAfterEncodeIsIdentity : Prop :=
  ∀ (ext : Bool) (i : Instr) (rest : List Byte), i.wf ext = true → decode ext (encode i ++ rest) = .ok (i, rest)

/-- What the decoder answers is a well-formed instruction, and the bytes it read are that instruction's
encoding: no bit of a byte is ignored and no two byte sequences decode to one instruction. With EXT186 false an 80186 opcode is
one Fatal byte (log 11). -/
def Obligations.EncodeAfterDecodeIsIdentity : Prop :=
  ∀ (ext : Bool) (bytes rest : List Byte) (i : Instr),
    decode ext bytes = .ok (i, rest) → i.wf ext = true ∧ bytes = encode i ++ rest

/-- R172, R195: whatever six bytes stand at CS:IP, the decoder answers an instruction of one to six of them.
With EXT186 false an 80186 opcode is one Fatal byte (log 11). -/
def Obligations.EverySixBytesDecode : Prop :=
  ∀ (ext : Bool) (bytes : List Byte), 6 ≤ bytes.length →
    ∃ i rest, decode ext bytes = .ok (i, rest) ∧ rest.length < bytes.length ∧ bytes.length ≤ rest.length + 6

/-- R183: a ModR/M byte and its displacement take `num_bytes` bytes, for every ModR/M byte and displacement. -/
def Obligations.ModRMTakesNumBytes : Prop :=
  ∀ (b d₁ d₂ : Byte) (rest : List Byte),
    ∃ x, modRM (b :: d₁ :: d₂ :: rest) = .ok (x, (b :: d₁ :: d₂ :: rest).drop (numBytes b))

/-! ## Steps -/

/-- R170, R171: with no host event listed, a step of a running machine whose bytes at CS:IP decode to an instruction
that is no prefix runs exactly it, from the state with IP past its bytes, and then ends the instruction
(Cycle.lean: `finishInstr` clears the slots and takes the single-step trap). It is one slot of the batch under way, of
which k are left, or the first of the next batch, whose length is the parameter's (R871; that the host calls step(n)
again by itself is the model's choice, log 7; so is that the six bytes are looked at before they are fetched,
log 14). -/
def Obligations.StepRunsDecodedInstruction : Prop :=
  ∀ (s : State) (i : Instr) (rest : List Byte) (k : Nat), s.run = .running → s.events = [] →
    (s.batch = some (k + 1) ∨ s.batch = none ∧ k = s.params.moreSlots) →
    decode s.params.ext186 (codeBytes s) = .ok (i, rest) → i.isPrefix = false →
    step s = finishInstr (flag .tf s) (exec i (fetchBytes (6 - rest.length) (beginInstr (s.setBatch (some k)))))

/-- R170: the fetch looks at CS:IP, CS:IP+1, ..., IP wrapping inside the segment; n fetched bytes move IP by n and
change nothing else but the latch, and that only if one of them is in the aperture. That the decoder first looks at six
bytes is the model's choice (log 14). -/
def Obligations.FetchAdvancesIP : Prop :=
  ∀ (s : State) (n : Nat),
    codeBytes s = (List.range 6).map (fun k => peek8 (lin (sreg .cs s) (s.ip + BitVec.ofNat 16 k)) s) ∧
    (fetchBytes n s).ip = s.ip + BitVec.ofNat 16 n ∧
    Frame { ip := true, reads := (List.range n).map fun k => lin (sreg .cs s) (s.ip + BitVec.ofNat 16 k) } s
      (fetchBytes n s)

/-- R173, R528: each prefix sets its slot and nothing else; the prefix loop goes on with the byte after it; and
a step of a running machine is that loop from empty slots. A code segment of prefixes alone is fetched forever: the run
hangs inside the slot, no instruction ends and no boundary comes. That the hang shows the state in which the instruction
starts, again at every step, is the model's choice (log 10), and so is that the host calls step(n) again by itself between
batches (R871, log 7). -/
def Obligations.PrefixesSetTheirSlots : Prop :=
  (∀ s, exec .prefixES s = .next (s.setSegOverride (some .es)) ∧
    exec .prefixCS s = .next (s.setSegOverride (some .cs)) ∧
    exec .prefixSS s = .next (s.setSegOverride (some .ss)) ∧
    exec .prefixDS s = .next (s.setSegOverride (some .ds)) ∧
    exec .repne s = .next (s.setRep (some .repne)) ∧
    exec .rep s = .next (s.setRep (some .repe)) ∧
    exec .lock s = .next s) ∧
  (∀ (n : Nat) (s : State) (i : Instr) (rest : List Byte),
    decode s.params.ext186 (codeBytes s) = .ok (i, rest) → i.isPrefix = true →
    ∃ t, exec i (fetchBytes 1 s) = .next t ∧ prefixLoop (n + 1) s = prefixLoop n t) ∧
  (∀ (s : State) (k : Nat) (a : Answer), s.run = .running → s.events = [] →
    (s.batch = some (k + 1) ∨ s.batch = none ∧ k = s.params.moreSlots) →
    prefixLoop 65537 ((((s.setBatch (some k)).setSegOverride none).setRep none).setInstrIP s.ip) = some a →
    step s = finishInstr (flag .tf s) a) ∧
  (∀ (s : State) (k : Nat), s.run = .running → s.events = [] →
    (s.batch = some (k + 1) ∨ s.batch = none ∧ k = s.params.moreSlots) →
    (∀ off : Word, peek8 (lin (sreg .cs s) off) s ∈
      [0x26#8, 0x2E#8, 0x36#8, 0x3E#8, 0xF0#8, 0xF2#8, 0xF3#8]) →
    step s = .next (s.setBatch (some (k + 1))))

/-- R50 to R54, R850: the power-on values the spec gives. The values it leaves open (general registers, RAM,
planes, the video mode) are the model's, logs 1 to 4, and no clause rests on them. -/
def Obligations.ResetHoldsTheSpecValues : Prop :=
  let s := State.reset
  (sreg .cs s = 0xFFFF#16 ∧ s.ip = 0x0000#16 ∧ sreg .ds s = 0 ∧ sreg .es s = 0 ∧ sreg .ss s = 0) ∧
  (∀ k, flag k s = false) ∧
  (s.segOverride = none ∧ s.rep = none ∧ s.run = .running) ∧
  (∀ a, isReadonly a s = false) ∧ (∀ p, shadowGet p s = 0) ∧
  (s.pic.irr = 0 ∧ s.pic.isr = 0 ∧ s.pic.imr = 0 ∧ s.pic.icw1 = 0 ∧ s.pic.icw2 = 0 ∧ s.pic.icw3 = 0 ∧
    s.pic.icw4 = 0 ∧ s.pic.step = .complete ∧ s.pic.readIsr = false ∧ s.pic.kbdAck = false ∧ s.pic.makeupTicks = 0) ∧
  (∀ d : Byte, (s.disk.at d).inserted = false ∧ s.disk.lastAh.get 0#8 d.toNat = 0 ∧
    s.disk.lastCf.get false d.toNat = false) ∧
  (s.video.mode.activePage = 0 ∧ s.video.crtcIndex = 0 ∧ s.video.seqIndex = 0 ∧ s.video.gcIndex = 0 ∧
    s.video.mdaCtrl = 0 ∧ s.video.cgaCtrl = 0 ∧ s.video.cgaPalette = 0 ∧ s.video.pixelMask = 0 ∧ s.video.latch = 0) ∧
  (∀ i, s.video.crtc.get 0#8 i = 0 ∧ s.video.seqReg i = (if i = 2 then 0x0F#8 else 0) ∧
    s.video.gcReg i = (if i = 8 then 0xFF#8 else 0) ∧ s.video.dac.entries.get 0#24 i = 0 ∧
    s.video.attr.palette.get 0#24 i = 0 ∧ s.video.attr.attr.get 0#8 i = 0) ∧
  (s.video.dac.readIndex = 0 ∧ s.video.dac.writeIndex = 0 ∧ s.video.dac.channel = .r ∧ s.video.dac.state = .writing ∧
    s.video.attr.flipflop = .address ∧ s.video.attr.index = 0) ∧
  (s.hostRunning = true ∧ s.hardReset = false ∧ s.bootDrive = 0)

/-- The power-on state meets the invariant. Where the spec leaves the reset value open, what meets it is the model's
choice: empty RAM and planes (logs 2, 3), the video mode's row (log 4), IP0 (log 15). -/
def Obligations.ResetMeetsTheInvariant : Prop := State.reset.Inv

/-- From every state that meets the invariant, a step gives a state that meets it: every table keeps its
canonical form and size, the video mode stays a row of the mode table (R54, R652), and between steps both prefix
slots are empty (R38, R173). That they are empty after a Fatal instruction too is the model's choice (log 16), and so
is the field IP0, 0 between steps (log 15). -/
def Obligations.StepKeepsTheInvariant : Prop := ∀ s t : State, s.Inv → step s = .next t → t.Inv

/-- R102, R113: outside the aperture no step changes a byte whose read-only bit is set, and no step clears a
read-only bit; loading a ROM, between batches, is the one exception for the byte. -/
def Obligations.ReadOnlyBytesNeverChange : Prop :=
  ∀ (s t : State) (a : Linear), isReadonly a s = true → step s = .next t →
    isReadonly a t = true ∧
      (inAperture a = false → (s.batch = none → ∀ base bytes, s.events.head? ≠ some (.loadRom base bytes)) →
        peek8 a t = peek8 a s)

/-- R33, R37, R40: TF, IF, DF, CS and the run state are written by the instructions those rules name and by no
other (Safety.lean lists them as `mayWriteTF` and so on). -/
def Obligations.OnlyNamedInstructionsWriteSystemState : Prop :=
  ∀ (i : Instr) (s t : State), i.wf s.params.ext186 = true → exec i s = .next t →
    (mayWriteTF i = false → flag .tf t = flag .tf s) ∧
    (mayWriteIF i = false → flag .if t = flag .if s) ∧
    (mayWriteDF i = false → flag .df t = flag .df s) ∧
    (mayWriteCS i = false → sreg .cs t = sreg .cs s) ∧
    (mayWriteRun i = false → t.run = s.run)

/-! ## Memory and registers -/

/-- R106, with R101 and R102: a byte written outside the aperture reads back; a read-only byte reads as before;
no other byte changes, in the aperture or outside. -/
def Obligations.ByteWritesReadBack : Prop :=
  ∀ (a b : Linear) (v : Byte) (s : State),
    (isReadonly a s = false → inAperture a = false → (read8 a (write8 a v s)).1 = v) ∧
    (isReadonly a s = true → write8 a v s = s) ∧
    (b ≠ a → (read8 b (write8 a v s)).1 = (read8 b s).1) ∧
    (inAperture a = true ↔ 0xA0000 ≤ a.toNat ∧ a.toNat ≤ 0xAFFFF)

/-- R103, R104, R107: a word is its byte at a, low, and its byte at a+1, high, the address wrapping at 2^20; each
byte of a written word is gated by its own read-only bit. -/
def Obligations.WordsAreTwoBytes : Prop :=
  ∀ (a : Linear) (v : Word) (s : State),
    (read16 a s).1 = (read8 (a + 1) s).1 ++ (read8 a s).1 ∧
    (inAperture a = false → isReadonly a s = false →
      (read8 a (write16 a v s)).1 = v.extractLsb' 0 8) ∧
    (inAperture (a + 1) = false → isReadonly (a + 1) s = false →
      (read8 (a + 1) (write16 a v s)).1 = v.extractLsb' 8 8) ∧
    (isReadonly a s = true → (read8 a (write16 a v s)).1 = (read8 a s).1) ∧
    (isReadonly (a + 1) s = true → (read8 (a + 1) (write16 a v s)).1 = (read8 (a + 1) s).1) ∧
    (inAperture a = false → isReadonly a s = false → inAperture (a + 1) = false → isReadonly (a + 1) s = false →
      (read16 a (write16 a v s)).1 = v)

/-- R31: the byte registers are the halves of AX, CX, DX and BX; writing one changes only its byte; writing a
word register changes both halves. -/
def Obligations.ByteRegistersAreHalves : Prop :=
  ∀ (s : State) (v : Byte) (x : Word),
    (reg16 .ax s = reg8 .ah s ++ reg8 .al s ∧ reg16 .cx s = reg8 .ch s ++ reg8 .cl s ∧
      reg16 .dx s = reg8 .dh s ++ reg8 .dl s ∧ reg16 .bx s = reg8 .bh s ++ reg8 .bl s) ∧
    (∀ k, reg8 k (setReg8 k v s) = v ∧ (∀ j, j ≠ k → reg8 j (setReg8 k v s) = reg8 j s) ∧
      (∀ r, r ≠ fullReg k → reg16 r (setReg8 k v s) = reg16 r s)) ∧
    (∀ r, reg16 r (setReg16 r x s) = x ∧ (∀ j, j ≠ r → reg16 j (setReg16 r x s) = reg16 j s)) ∧
    (reg8 .al (setReg16 .ax x s) = x.extractLsb' 0 8 ∧ reg8 .ah (setReg16 .ax x s) = x.extractLsb' 8 8)

/-- R35, R36: the FLAGS word has each flag at its bit and the image's reserved bits; setting it from a word takes
the nine flags and ignores the reserved bits, so the word read after that is the word set but for those bits. -/
def Obligations.FlagsWordHoldsTheFlags : Prop :=
  ∀ (s : State) (v : Word),
    ((flagsWord s).getLsbD 0 = flag .cf s ∧ (flagsWord s).getLsbD 2 = flag .pf s ∧
      (flagsWord s).getLsbD 4 = flag .af s ∧ (flagsWord s).getLsbD 6 = flag .zf s ∧
      (flagsWord s).getLsbD 7 = flag .sf s ∧ (flagsWord s).getLsbD 8 = flag .tf s ∧
      (flagsWord s).getLsbD 9 = flag .if s ∧ (flagsWord s).getLsbD 10 = flag .df s ∧
      (flagsWord s).getLsbD 11 = flag .of s) ∧
    (∀ i ∈ [1, 3, 5, 12, 13, 14, 15], (flagsWord s).getLsbD i = s.params.flagsReservedImage.getLsbD i) ∧
    flagsWord (setFlagsWord v s) = (v &&& 0x0FD5#16) ||| (s.params.flagsReservedImage &&& 0xF02A#16) ∧
    setFlagsWord (flagsWord s) s = s

/-- R100, R181, R182, R185: the linear address of a memory operand: the offset's sum mod 2^16, the segment SS for
a base with BP and DS for the others unless an override is in force, and segment * 16 + offset mod 2^20. -/
def Obligations.EffectiveAddresses : Prop :=
  (∀ seg off : Word, (lin seg off).toNat = (seg.toNat * 16 + off.toNat) % 2 ^ 20) ∧
  (∀ (s : State) (b : EaBase) (d : Word) (d8 : Byte),
    eaOffset (.direct d) s = d ∧ eaOffset (.base b) s = baseSum b s ∧
    eaOffset (.disp8 b d8) s = baseSum b s + d8.signExtend 16 ∧ eaOffset (.disp16 b d) s = baseSum b s + d) ∧
  (∀ (s : State) (m : MemOp) (k : Sreg), s.segOverride = some k → ea m s = lin (sreg k s) (eaOffset m s)) ∧
  (∀ (s : State) (m : MemOp), s.segOverride = none →
    ea m s = lin (sreg (match m with
      | .direct _ => .ds
      | .base b | .disp8 b _ | .disp16 b _ => if b ∈ [.bpsi, .bpdi, .bp] then .ss else .ds) s) (eaOffset m s))

/-! ## Data transfer -/

/-- R231 to R236: MOV stores the source at the destination and changes nothing else; no flag changes. From a segment
register it stores the whole word; to ES, SS or DS it loads it. -/
def Obligations.MovStoresItsSource : Prop :=
  ((∀ (s : State) (rm : RM8) (g : Reg8),
      Completes (.mov (.ebGb rm g)) s (fun t => ResultAt8 rm (reg8 g s) s s t ∧ Frame (dest8 rm s [] []) s t) ∧
      Completes (.mov (.gbEb g rm)) s (fun t => reg8 g t = rm8Value rm s ∧
        Frame { bytes := [g], reads := rmReads8 rm s } s t)) ∧
    (∀ (s : State) (rm : RM16) (g : Reg16),
      Completes (.mov (.ewGw rm g)) s (fun t => ResultAt16 rm (reg16 g s) s s t ∧ Frame (dest16 rm s [] []) s t) ∧
      Completes (.mov (.gwEw g rm)) s (fun t => reg16 g t = rm16Value rm s ∧
        Frame { regs := [g], reads := rmReads16 rm s } s t)) ∧
    (∀ (s : State) (rm : RM8) (i : Byte),
      Completes (.movEImm (.b rm i)) s (fun t => ResultAt8 rm i s s t ∧ Frame (dest8 rm s [] []) s t)) ∧
    (∀ (s : State) (rm : RM16) (i : Word),
      Completes (.movEImm (.w rm i)) s (fun t => ResultAt16 rm i s s t ∧ Frame (dest16 rm s [] []) s t)) ∧
    (∀ (s : State) (r : Reg8) (i : Byte),
      Completes (.movRegImm (.b r i)) s (fun t => reg8 r t = i ∧ Frame { bytes := [r] } s t)) ∧
    (∀ (s : State) (r : Reg16) (i : Word),
      Completes (.movRegImm (.w r i)) s (fun t => reg16 r t = i ∧ Frame { regs := [r] } s t)) ∧
    (∀ (s : State) (off : Word) (a : Linear), a = lin (sreg (s.segOverride.getD .ds) s) off →
      Completes (.movMoffs (.alOb off)) s (fun t => reg8 .al t = peek8 a s ∧ Frame { bytes := [.al], reads := [a] } s t) ∧
      Completes (.movMoffs (.axOw off)) s (fun t => reg16 .ax t = peek16 a s ∧
        Frame { regs := [.ax], reads := wordAt a } s t) ∧
      Completes (.movMoffs (.obAl off)) s (fun t => SameMemory t (write8 a (reg8 .al s) s) ∧ Frame { mem := [a] } s t) ∧
      Completes (.movMoffs (.owAx off)) s (fun t => SameMemory t (write16 a (reg16 .ax s) s) ∧
        Frame { mem := wordAt a } s t))) ∧
  (∀ (s : State) (rm : RM16) (k : Sreg),
      Completes (.movFromSreg rm k) s (fun t => ResultAt16 rm (sreg k s) s s t ∧ Frame (dest16 rm s [] []) s t) ∧
      (k ≠ .cs → Completes (.movToSreg k rm) s (fun t => sreg k t = rm16Value rm s ∧
        Frame { sregs := [k], reads := rmReads16 rm s } s t)))

/-- R230, R237, R239, R241, R256, R564, R565: a push takes SP down by two and stores the word at SS:SP, whatever
the segment override. PUSH SP stores the SP after the decrement in its one-byte form (R237) and the old SP in the
form FF /6 (R241). -/
def Obligations.PushesStoreBelowSP : Prop :=
  ∀ s : State,
    (∀ r : Reg16, r ≠ .sp → Completes (.pushReg r) s (Pushed (reg16 r s) [] s s)) ∧
    Completes (.pushReg .sp) s (Pushed (reg16 .sp s - 2) [] s s) ∧
    (∀ k : Sreg, Completes (.pushSreg k) s (Pushed (sreg k s) [] s s)) ∧
    (∀ rm : RM16, Completes (.pushE rm) s (Pushed (rm16Value rm s) (rmReads16 rm s) (afterRead16 rm s) s)) ∧
    Completes .pushf s (Pushed (flagsWord s) [] s s) ∧
    (∀ i : Word, Completes (.pushIw i) s (Pushed i [] s s)) ∧
    (∀ i : Byte, Completes (.pushIbs i) s (Pushed (i.signExtend 16) [] s s))

/-- R230, R238, R240, R242, R257: a pop takes the word at SS:SP and moves SP up by two. POP SP leaves SP at the
word popped; the memory form's address is the one before SP moved; POPF loads all nine flags. -/
def Obligations.PopsLoadTheStackTop : Prop :=
  ∀ s : State,
    (∀ r : Reg16, Completes (.popReg r) s (fun t => reg16 r t = peek16 (stackTop s) s ∧
      (r ≠ .sp → reg16 .sp t = reg16 .sp s + 2) ∧ Frame { regs := [r, .sp], reads := wordAt (stackTop s) } s t)) ∧
    (∀ k : Sreg, k ≠ .cs → Completes (.popSreg k) s (fun t => sreg k t = peek16 (stackTop s) s ∧
      reg16 .sp t = reg16 .sp s + 2 ∧ Frame { regs := [.sp], sregs := [k], reads := wordAt (stackTop s) } s t)) ∧
    (∀ r : Reg16, Completes (.popE (.reg r)) s (fun t => reg16 r t = peek16 (stackTop s) s ∧
      (r ≠ .sp → reg16 .sp t = reg16 .sp s + 2) ∧ Frame { regs := [r, .sp], reads := wordAt (stackTop s) } s t)) ∧
    (∀ m : MemOp, Completes (.popE (.mem m)) s (fun t =>
      SameMemory t (write16 (ea m s) (peek16 (stackTop s) s) (touch16 (stackTop s) s)) ∧
      reg16 .sp t = reg16 .sp s + 2 ∧
      Frame { regs := [.sp], mem := wordAt (ea m s), reads := wordAt (stackTop s) } s t)) ∧
    Completes .popf s (fun t => t.flags = .ofWord (peek16 (stackTop s) s) ∧ reg16 .sp t = reg16 .sp s + 2 ∧
      Frame { regs := [.sp], flags := [.cf, .pf, .af, .zf, .sf, .tf, .if, .df, .of], reads := wordAt (stackTop s) } s t)

/-- R243, R244: XCHG puts each operand's old value in the other; a memory operand is read before it is written. -/
def Obligations.ExchangesSwapTheOperands : Prop :=
  ∀ s : State,
    (∀ r g : Reg8, Completes (.xchg (.b (.reg r) g)) s (fun t => reg8 g t = reg8 r s ∧ reg8 r t = reg8 g s ∧
      Frame { bytes := [r, g] } s t)) ∧
    (∀ (m : MemOp) (g : Reg8), Completes (.xchg (.b (.mem m) g)) s (fun t => reg8 g t = peek8 (ea m s) s ∧
      SameMemory t (write8 (ea m s) (reg8 g s) (touch8 (ea m s) s)) ∧
      Frame { bytes := [g], mem := [ea m s], reads := [ea m s] } s t)) ∧
    (∀ r g : Reg16, Completes (.xchg (.w (.reg r) g)) s (fun t => reg16 g t = reg16 r s ∧ reg16 r t = reg16 g s ∧
      Frame { regs := [r, g] } s t)) ∧
    (∀ (m : MemOp) (g : Reg16), Completes (.xchg (.w (.mem m) g)) s (fun t => reg16 g t = peek16 (ea m s) s ∧
      SameMemory t (write16 (ea m s) (reg16 g s) (touch16 (ea m s) s)) ∧
      Frame { regs := [g], mem := wordAt (ea m s), reads := wordAt (ea m s) } s t)) ∧
    (∀ r : Reg16, Completes (.xchgAX r) s (fun t => reg16 .ax t = reg16 r s ∧ reg16 r t = reg16 .ax s ∧
      Frame { regs := [.ax, r] } s t))

/-- R246 to R249: LEA loads the offset and reads no memory; LDS and LES load the two words of a far pointer, both
read before a register is written; XLAT loads the byte at BX + AL of DS or the override. -/
def Obligations.AddressAndTableLoads : Prop :=
  ∀ s : State,
    (∀ (g : Reg16) (m : MemOp), Completes (.lea g (.mem m)) s (fun t => reg16 g t = eaOffset m s ∧
      Frame { regs := [g] } s t)) ∧
    (∀ (g : Reg16) (m : MemOp), Completes (.lds g (.mem m)) s (fun t => reg16 g t = peek16 (ea m s) s ∧
      sreg .ds t = peek16 (ea m s + 2) s ∧
      Frame { regs := [g], sregs := [.ds], reads := wordAt (ea m s) ++ wordAt (ea m s + 2) } s t)) ∧
    (∀ (g : Reg16) (m : MemOp), Completes (.les g (.mem m)) s (fun t => reg16 g t = peek16 (ea m s) s ∧
      sreg .es t = peek16 (ea m s + 2) s ∧
      Frame { regs := [g], sregs := [.es], reads := wordAt (ea m s) ++ wordAt (ea m s + 2) } s t)) ∧
    (∀ a : Linear, a = lin (sreg (s.segOverride.getD .ds) s) (reg16 .bx s + (0#8 ++ reg8 .al s)) →
      Completes .xlat s (fun t => reg8 .al t = peek8 a s ∧ Frame { bytes := [.al], reads := [a] } s t))

/-- R245, R527, R530: NOP, WAIT and every ESC change nothing. -/
def Obligations.NoOperationsChangeNothing : Prop :=
  ∀ s : State, exec .nop s = .next s ∧ exec .wait s = .next s ∧
    ∀ (x reg : BitVec 3) (rm : RM16), exec (.esc x reg rm) s = .next s

/-- R254, R255, R258, R259, R520 to R526, R529: the flag transfers, the sign extensions, and the flag and halt
instructions. -/
def Obligations.FlagAndSignInstructions : Prop :=
  ∀ s : State,
    Completes .lahf s (fun t => reg8 .ah t = (flagsWord s).extractLsb' 0 8 ∧ Frame { bytes := [.ah] } s t) ∧
    Completes .sahf s (fun t => flag .sf t = (reg8 .ah s).getLsbD 7 ∧ flag .zf t = (reg8 .ah s).getLsbD 6 ∧
      flag .af t = (reg8 .ah s).getLsbD 4 ∧ flag .pf t = (reg8 .ah s).getLsbD 2 ∧ flag .cf t = (reg8 .ah s).getLsbD 0 ∧
      Frame { flags := [.sf, .zf, .af, .pf, .cf] } s t) ∧
    Completes .cbw s (fun t => (reg16 .ax t).toInt = (reg8 .al s).toInt ∧ Frame { regs := [.ax] } s t) ∧
    Completes .cwd s (fun t => (reg16 .dx t ++ reg16 .ax t).toInt = (reg16 .ax s).toInt ∧ Frame { regs := [.dx] } s t) ∧
    Completes .clc s (fun t => flag .cf t = false ∧ Frame { flags := [.cf] } s t) ∧
    Completes .stc s (fun t => flag .cf t = true ∧ Frame { flags := [.cf] } s t) ∧
    Completes .cmc s (fun t => flag .cf t = !flag .cf s ∧ Frame { flags := [.cf] } s t) ∧
    Completes .cld s (fun t => flag .df t = false ∧ Frame { flags := [.df] } s t) ∧
    Completes .std s (fun t => flag .df t = true ∧ Frame { flags := [.df] } s t) ∧
    Completes .cli s (fun t => flag .if t = false ∧ Frame { flags := [.if] } s t) ∧
    Completes .sti s (fun t => flag .if t = true ∧ Frame { flags := [.if] } s t) ∧
    Completes .hlt s (fun t => t.run = .halted ∧ Frame { run := true } s t)

/-! ## Ports -/

/-- R120, R122, R250 to R253: IN loads AL, or AX from port p and then port p+1; OUT writes AL, or AX's low byte to
p and then its high byte to p+1, port numbers mod 2^16. Every other register, flag and byte is as the port access
leaves it. -/
def Obligations.InAndOutAccessTheirPorts : Prop :=
  ∀ (s : State) (p : Byte) (a : Word),
    (a = 0#8 ++ p ∨ a = reg16 .dx s) →
    let inB : Instr := if a = 0#8 ++ p then .inImm .al p else .inDX .al
    let inW : Instr := if a = 0#8 ++ p then .inImm .ax p else .inDX .ax
    let outB : Instr := if a = 0#8 ++ p then .outImm p .al else .outDX .al
    let outW : Instr := if a = 0#8 ++ p then .outImm p .ax else .outDX .ax
    let r := portRead8 a s
    let r' := portRead8 (a + 1) r.2
    Completes inB s (fun t => reg8 .al t = r.1 ∧ Frame { bytes := [.al] } r.2 t) ∧
    Completes inW s (fun t => reg16 .ax t = r'.1 ++ r.1 ∧ Frame { regs := [.ax] } r'.2 t) ∧
    exec outB s = .next (portWrite8 a (reg8 .al s) s) ∧
    exec outW s = .next (portWrite8 (a + 1) (reg8 .ah s) (portWrite8 a (reg8 .al s) s))

/-- R120, R121, R124: outside 0x20, 0x21 and 0x3B0 to 0x3DF a read answers the shadow byte and changes nothing, or
is a free byte if the port is an external collaborator's; a write changes that port's shadow byte alone. -/
def Obligations.OtherPortsUseTheirShadow : Prop :=
  ∀ (s : State) (p : Word) (v : Byte),
    p ≠ 0x0020#16 → p ≠ 0x0021#16 → (p.toNat < 0x3B0 ∨ 0x3DF < p.toNat) →
    (p ∉ s.params.externalPorts → portRead8 p s = (shadowGet p s, s)) ∧
    (p ∈ s.params.externalPorts → (portRead8 p s).2 = s.setDraws (s.draws + 1)) ∧
    shadowGet p (portWrite8 p v s) = v ∧ (∀ q, q ≠ p → shadowGet q (portWrite8 p v s) = shadowGet q s) ∧
    (portWrite8 p v s).setShadow s.shadow = s

/-- R680 to R686, R690, R694 to R702, R705: each named port of the adapter reads and writes its register; the
ports that only take writes read as free bytes; a write to a port no rule names reaches its shadow byte alone. -/
def Obligations.AdapterPortsReachTheirRegisters : Prop :=
  ∀ (s : State) (v : Byte),
    (∀ p ∈ [0x3B0#16, 0x3B2#16, 0x3B4#16, 0x3B6#16, 0x3D0#16, 0x3D2#16, 0x3D4#16, 0x3D6#16],
      portRead8 p s = (s.video.crtcIndex, s) ∧
      portWrite8 p v s = s.setVideo { s.video with crtcIndex := v }) ∧
    (∀ p ∈ [0x3B1#16, 0x3B3#16, 0x3B5#16, 0x3B7#16, 0x3D1#16, 0x3D3#16, 0x3D5#16, 0x3D7#16],
      portRead8 p s = (s.video.crtc.get 0#8 (s.video.crtcIndex &&& 0x1F#8).toNat, s) ∧
      portWrite8 p v s = s.setVideo { s.video with crtc := s.video.crtc.set 0#8 (s.video.crtcIndex &&& 0x1F#8).toNat v }) ∧
    portWrite8 0x3B8#16 v s = s.setVideo { s.video with mdaCtrl := v } ∧
    portWrite8 0x3D8#16 v s = s.setVideo { s.video with cgaCtrl := v } ∧
    portWrite8 0x3D9#16 v s = s.setVideo { s.video with cgaPalette := v } ∧
    (portRead8 0x3C4#16 s = (s.video.seqIndex, s) ∧
      portWrite8 0x3C4#16 v s = s.setVideo { s.video with seqIndex := v }) ∧
    (portRead8 0x3C5#16 s = (s.video.seqReg s.video.seqIndex.toNat, s) ∧
      portWrite8 0x3C5#16 v s = s.setVideo { s.video with seq := s.video.seq.set 0#8 s.video.seqIndex.toNat v }) ∧
    (portRead8 0x3C6#16 s = (s.video.pixelMask, s) ∧
      portWrite8 0x3C6#16 v s = s.setVideo { s.video with pixelMask := v }) ∧
    (portRead8 0x3CE#16 s = (s.video.gcIndex, s) ∧
      portWrite8 0x3CE#16 v s = s.setVideo { s.video with gcIndex := v }) ∧
    (portRead8 0x3CF#16 s = (s.video.gcReg s.video.gcIndex.toNat, s) ∧
      portWrite8 0x3CF#16 v s = s.setVideo { s.video with gc := s.video.gc.set 0#8 s.video.gcIndex.toNat v }) ∧
    portWrite8 0x3C7#16 v s =
      s.setVideo { s.video with dac := { s.video.dac with readIndex := v, channel := .r, state := .reading } } ∧
    portWrite8 0x3C8#16 v s =
      s.setVideo { s.video with dac := { s.video.dac with writeIndex := v, channel := .r, state := .writing } } ∧
    (∀ p ∈ [0x3B8#16, 0x3D8#16, 0x3D9#16, 0x3C0#16, 0x3C1#16, 0x3C7#16, 0x3C8#16],
      (portRead8 p s).2 = s.setDraws (s.draws + 1)) ∧
    (∀ p ∈ [0x3B9#16, 0x3BB#16, 0x3BC#16, 0x3BD#16, 0x3BE#16, 0x3BF#16, 0x3DB#16, 0x3DC#16, 0x3DD#16, 0x3DE#16, 0x3DF#16,
        0x3C2#16, 0x3C3#16, 0x3CA#16, 0x3CB#16, 0x3CC#16, 0x3CD#16],
      (portRead8 p s).2 = s.setDraws (s.draws + 1)) ∧
    (∀ p ∈ [0x3B9#16, 0x3BA#16, 0x3BB#16, 0x3BC#16, 0x3BD#16, 0x3BE#16, 0x3BF#16, 0x3DA#16, 0x3DB#16, 0x3DC#16, 0x3DD#16,
        0x3DE#16, 0x3DF#16, 0x3C1#16, 0x3C2#16, 0x3C3#16, 0x3CA#16, 0x3CB#16, 0x3CC#16, 0x3CD#16],
      portWrite8 p v s = s.setShadow (s.shadow.set 0#8 p.toNat v))

/-- R691 to R693: a write to 0x3C0 stores the index, or the palette entry of an index below 16, or the raw byte, and
toggles the flip-flop; a status read resets it and answers bits 7 to 4 set and bit 2 clear, bits 0, 1 and 3 being
free. That the index is the low five bits, bit 5 of the byte being dropped, follows R691's pseudocode and R48 against a
sentence of R691's prose (log 27). -/
def Obligations.AttributeWritesAlternate : Prop :=
  ∀ (s : State) (v : Byte),
    let a := s.video.attr
    let t := portWrite8 0x3C0#16 v s
    (a.flipflop = .address →
      t = s.setVideo { s.video with attr := { a with index := v.extractLsb' 0 5, flipflop := .data } }) ∧
    (a.flipflop = .data → a.index.toNat < 16 →
      t = s.setVideo { s.video with attr := { a with
        palette := a.palette.set 0#24 a.index.toNat (egaColour v), flipflop := .address } }) ∧
    (a.flipflop = .data → 16 ≤ a.index.toNat →
      t = s.setVideo { s.video with attr := { a with attr := a.attr.set 0#8 a.index.toNat v, flipflop := .address } }) ∧
    (∀ p ∈ [0x3BA#16, 0x3DA#16],
      (portRead8 p s).1 &&& 0xF4#8 = 0xF0#8 ∧
      (portRead8 p s).2 = (s.setVideo { s.video with attr := { a with flipflop := .address } }).setDraws (s.draws + 1)) ∧
    (egaColour v).toNat =
      let level (hi lo : Bool) : Nat := [0x00, 0xAA, 0x55, 0xFF].getD (2 * hi.toNat + lo.toNat) 0
      2 ^ 16 * level (v.getLsbD 5) (v.getLsbD 2) + 2 ^ 8 * level (v.getLsbD 4) (v.getLsbD 1) +
        level (v.getLsbD 3) (v.getLsbD 0)

/-- R703, R704: a write to 0x3C9 replaces one channel's byte of the entry, the low six bits shifted up by two, and
steps the channel, and the index when the channel wraps; a read answers the six bits and steps likewise. -/
def Obligations.DacDataCyclesTheChannels : Prop :=
  ∀ (s : State) (v : Byte),
    let d := s.video.dac
    let sh := match d.channel with | .r => 16 | .g => 8 | .b => 0
    let next : DacChannel := match d.channel with | .r => .g | .g => .b | .b => .r
    let t := (portWrite8 0x3C9#16 v s).video.dac
    let u := (portRead8 0x3C9#16 s).2.video.dac
    (t.channel = next ∧ t.writeIndex = (if d.channel = .b then d.writeIndex + 1 else d.writeIndex) ∧
      (∀ i : Byte, i ≠ d.writeIndex → t.entry i = d.entry i) ∧
      (∀ k : Nat, k < 24 → (t.entry d.writeIndex).getLsbD k =
        if sh ≤ k ∧ k < sh + 8 then decide (sh + 2 ≤ k) && v.getLsbD (k - sh - 2)
        else (d.entry d.writeIndex).getLsbD k) ∧
      t.readIndex = d.readIndex ∧ t.state = d.state) ∧
    ((∀ k : Nat, k < 8 → (portRead8 0x3C9#16 s).1.getLsbD k =
        (decide (k < 6) && (d.entry d.readIndex).getLsbD (sh + 2 + k))) ∧
      u = { d with channel := next, readIndex := if d.channel = .b then d.readIndex + 1 else d.readIndex }) ∧
    (∃ d', portWrite8 0x3C9#16 v s = s.setVideo { s.video with dac := d' }) ∧
    (∃ d', (portRead8 0x3C9#16 s).2 = s.setVideo { s.video with dac := d' })

/-- R706 to R708 and the source's three invariants: the DAC, the attribute controller and the CRTC store what a
program writes through their ports, and the CRTC file gives it back. -/
def Obligations.AdapterRoundTrips : Prop :=
  ∀ (s : State) (i v r g b : Byte),
    (let w := portWrite8 0x3C9#16 b (portWrite8 0x3C9#16 g (portWrite8 0x3C9#16 r (portWrite8 0x3C8#16 i s)))
     let s₀ := portWrite8 0x3C7#16 i w
     let a₁ := portRead8 0x3C9#16 s₀
     let a₂ := portRead8 0x3C9#16 a₁.2
     let a₃ := portRead8 0x3C9#16 a₂.2
     w.video.dac.entry i =
       ((r &&& 0x3F#8) ++ (g &&& 0x3F#8) ++ (b &&& 0x3F#8) : BitVec 24) <<< 2 ∧
     a₁.1 = r &&& 0x3F#8 ∧ a₂.1 = g &&& 0x3F#8 ∧ a₃.1 = b &&& 0x3F#8) ∧
    (∀ p ∈ [0x3BA#16, 0x3DA#16],
      (portRead8 p (portWrite8 0x3C0#16 v s)).2.video.attr.flipflop = .address ∧
      (i.toNat < 16 →
        let w := portWrite8 0x3C0#16 v (portWrite8 0x3C0#16 i (portRead8 p s).2)
        w.video.attr.palette.get 0#24 i.toNat = egaColour v ∧ w.video.attr.flipflop = .address)) ∧
    (let w := portWrite8 0x3D5#16 v (portWrite8 0x3D4#16 i s)
     w.video.crtc.get 0#8 (i &&& 0x1F#8).toNat = v ∧ portRead8 0x3D5#16 w = (v, w) ∧
     portWrite16 0x3D4#16 (v ++ i) s = w)

/-! ## The planar memory controller -/

/-- R730, R731: a read of the aperture loads the latch with the four planes' bytes, and answers the plane that the
read map selects, or in read mode 1 the bits where every compared plane agrees with its compare bit. -/
def Obligations.PlanarReads : Prop :=
  ∀ (s : State) (a : Linear), inAperture a = true →
    let v := s.video
    let k := (a.extractLsb' 0 16).toNat
    let byte (i : BitVec 2) : Byte := planeGet (v.planes.plane i) k
    (read8 a s).2 = s.setVideo { v with latch := byte 3 ++ byte 2 ++ byte 1 ++ byte 0 } ∧
    ((v.gcReg 5).getLsbD 3 = false → (read8 a s).1 = byte ((v.gcReg 4).extractLsb' 0 2)) ∧
    ((v.gcReg 5).getLsbD 3 = true → ∀ j : Nat, j < 8 →
      ((read8 a s).1.getLsbD j = true ↔ ∀ i : BitVec 2, (v.gcReg 7).getLsbD i.toNat = true →
        (byte i).getLsbD j = (v.gcReg 2).getLsbD i.toNat))

/-- R735, R736: a write to a byte of the aperture that is not read-only stores, in each plane whose write enable is
set, the lane of U that the write mode gives; the other planes, the latch and every other offset stay. -/
def Obligations.PlanarWrites : Prop :=
  ∀ (s : State) (a : Linear) (b : Byte) (i : BitVec 2), inAperture a = true → isReadonly a s = false →
    let v := s.video
    let k := (a.extractLsb' 0 16).toNat
    let n := i.toNat
    let t := write8 a b s
    let old : Byte := v.latch.extractLsb' (8 * n) 8
    let mask := v.gcReg 8
    let rotated := b.rotateRight (v.gcReg 3 &&& 7#8).toNat
    let alu (x : Byte) : Byte := match ((v.gcReg 3).extractLsb' 3 2).toNat with
      | 0 => x | 1 => x &&& old | 2 => x ||| old | _ => x ^^^ old
    let masked (x : Byte) : Byte := (x &&& mask) ||| (old &&& ~~~mask)
    let fill (c : Bool) : Byte := if c then 0xFF#8 else 0x00#8
    let u : Byte := match (v.gcReg 5 &&& 3#8).toNat with
      | 0 => masked (alu (if (v.gcReg 1).getLsbD n then fill ((v.gcReg 0).getLsbD n) else rotated))
      | 1 => old
      | 2 => masked (alu (fill (b.getLsbD n)))
      | _ => if (mask &&& rotated).getLsbD n then fill ((v.gcReg 0).getLsbD n) else old
    planeGet (t.video.planes.plane i) k =
      (if (v.seqReg 2).getLsbD n then u else planeGet (v.planes.plane i) k) ∧
    (∀ j, j ≠ k → planeGet (t.video.planes.plane i) j = planeGet (v.planes.plane i) j) ∧
    t = s.setVideo { v with planes := t.video.planes }

/-- R738: in the identity configuration every plane takes the byte written, and it reads back. -/
def Obligations.IdentityConfigurationStoresTheByte : Prop :=
  ∀ (s : State) (k : Word) (b : Byte) (i : BitVec 2),
    let v := s.video
    let a : Linear := 0xA0000#20 + k.setWidth 20
    v.gcReg 5 &&& 3#8 = 0 → v.gcReg 1 &&& 0x0F#8 = 0 → v.gcReg 8 = 0xFF#8 → v.gcReg 3 &&& 0x1F#8 = 0 →
    v.seqReg 2 &&& 0x0F#8 = 0x0F#8 → isReadonly a s = false →
    planeGet ((write8 a b s).video.planes.plane i) k.toNat = b ∧
    ((v.gcReg 5).getLsbD 3 = false → (read8 a (write8 a b s)).1 = b)

/-! ## Arithmetic -/

/-- R300, R302 to R305: ADD and ADC store the sum, for ADC with the CF of the instruction's start, at the
destination of every form of R303, with the flags of R300, and change nothing else. -/
def Obligations.AdditionStoresTheSum : Prop :=
  ∀ (s : State) (f : AluForm),
    Completes (.add f) s (AluResult f (fun a b => a + b) (fun a b => AddFlagsAre a b false) s) ∧
    Completes (.adc f) s (AluResult f (fun {w} a b => a + b + BitVec.ofNat w (flag .cf s).toNat)
      (fun a b => AddFlagsAre a b (flag .cf s)) s)

/-- R301 to R303, R306 to R308: SUB and SBB store the difference, for SBB with the CF of the instruction's start,
at the destination of every form, with the flags of R301; CMP writes those flags and no operand. -/
def Obligations.SubtractionStoresTheDifference : Prop :=
  ∀ (s : State) (f : AluForm),
    Completes (.sub f) s (AluResult f (fun a b => a - b) (fun a b => SubFlagsAre a b false) s) ∧
    Completes (.sbb f) s (AluResult f (fun {w} a b => a - b - BitVec.ofNat w (flag .cf s).toNat)
      (fun a b => SubFlagsAre a b (flag .cf s)) s) ∧
    Completes (.cmp f) s (AluTested f (fun a b => SubFlagsAre a b false) s)

/-- What the flags of R300 and R301 mean (derived): CF is the lost carry or borrow, AF the carry or borrow of the
low digit, OF that the signed result does not fit, ZF and SF the result's, and PF that its low byte has an even
number of ones. -/
def Obligations.ArithmeticFlagsMeanWhatTheyName : Prop :=
  ∀ (w : Nat) (a b : BitVec w) (c : Bool) (t : State), 8 ≤ w →
    (AddFlagsAre a b c t →
      (addResult a b c).toNat + 2 ^ w * (flag .cf t).toNat = a.toNat + b.toNat + c.toNat ∧
      (flag .of t = true ↔ (addResult a b c).toInt ≠ a.toInt + b.toInt + c.toNat) ∧
      (flag .af t = true ↔ 16 ≤ a.toNat % 16 + b.toNat % 16 + c.toNat) ∧
      (flag .zf t = true ↔ (addResult a b c).toNat = 0) ∧ (flag .sf t = true ↔ (addResult a b c).toInt < 0)) ∧
    (∀ r : BitVec w, SzpAre r t →
      (flag .pf t = true ↔ ((List.range 8).filter fun i => r.getLsbD i).length % 2 = 0)) ∧
    (SubFlagsAre a b c t →
      (subResult a b c).toNat + b.toNat + c.toNat = a.toNat + 2 ^ w * (flag .cf t).toNat ∧
      (flag .of t = true ↔ (subResult a b c).toInt ≠ a.toInt - b.toInt - c.toNat) ∧
      (flag .af t = true ↔ a.toNat % 16 < b.toNat % 16 + c.toNat) ∧
      (flag .zf t = true ↔ (subResult a b c).toNat = 0) ∧ (flag .sf t = true ↔ (subResult a b c).toInt < 0))

/-- R309 to R311, R375: INC and DEC, which leave CF, NEG and NOT, on a register and on an rm operand. -/
def Obligations.UnaryOperations : Prop :=
  ∀ s : State,
    (∀ r : Reg16, Completes (.incReg r) s (UnaryResult (.w (.reg r)) (fun d => d + 1) (fun d => IncFlagsAre d)
        [.pf, .af, .zf, .sf, .of] s) ∧
      Completes (.decReg r) s (UnaryResult (.w (.reg r)) (fun d => d - 1) (fun d => DecFlagsAre d)
        [.pf, .af, .zf, .sf, .of] s)) ∧
    (∀ e : EOp, Completes (.incE e) s (UnaryResult e (fun d => d + 1) (fun d => IncFlagsAre d)
        [.pf, .af, .zf, .sf, .of] s) ∧
      Completes (.decE e) s (UnaryResult e (fun d => d - 1) (fun d => DecFlagsAre d)
        [.pf, .af, .zf, .sf, .of] s) ∧
      Completes (.neg e) s (UnaryResult e (fun d => -d) (fun d => SubFlagsAre 0 d false) arithFlags s) ∧
      Completes (.not e) s (UnaryResult e (fun d => ~~~d) (fun _ _ => True) [] s))

/-- R312, R313, R566: the products, with CF and OF set when the product does not fit its low half; SF, ZF, AF and
PF are free. -/
def Obligations.MultiplicationsGiveTheProduct : Prop :=
  ∀ s : State,
    (∀ rm : RM8,
      Completes (.mul (.b rm)) s (fun t => (reg16 .ax t).toNat = (reg8 .al s).toNat * (rm8Value rm s).toNat ∧
        flag .cf t = (reg8 .ah t != 0) ∧ flag .of t = (reg8 .ah t != 0) ∧
        Frame { regs := [.ax], flags := arithFlags, reads := rmReads8 rm s } s t) ∧
      Completes (.imul (.b rm)) s (fun t => (reg16 .ax t).toInt = (reg8 .al s).toInt * (rm8Value rm s).toInt ∧
        flag .cf t = decide ((reg16 .ax t).toInt ≠ (reg8 .al t).toInt) ∧ flag .of t = flag .cf t ∧
        Frame { regs := [.ax], flags := arithFlags, reads := rmReads8 rm s } s t)) ∧
    (∀ rm : RM16,
      Completes (.mul (.w rm)) s (fun t =>
        (reg16 .dx t ++ reg16 .ax t).toNat = (reg16 .ax s).toNat * (rm16Value rm s).toNat ∧
        flag .cf t = (reg16 .dx t != 0) ∧ flag .of t = (reg16 .dx t != 0) ∧
        Frame { regs := [.ax, .dx], flags := arithFlags, reads := rmReads16 rm s } s t) ∧
      Completes (.imul (.w rm)) s (fun t =>
        (reg16 .dx t ++ reg16 .ax t).toInt = (reg16 .ax s).toInt * (rm16Value rm s).toInt ∧
        flag .cf t = decide ((reg16 .dx t ++ reg16 .ax t).toInt ≠ (reg16 .ax t).toInt) ∧ flag .of t = flag .cf t ∧
        Frame { regs := [.ax, .dx], flags := arithFlags, reads := rmReads16 rm s } s t)) ∧
    (∀ (g : Reg16) (rm : RM16) (k : ImulImm),
      Completes (.imulImm g rm k) s (fun t =>
        let p := (rm16Value rm s).toInt * (match k with | .iw i => i.toInt | .ibs i => i.toInt)
        reg16 g t = BitVec.ofInt 16 p ∧ flag .cf t = decide (p ≠ (reg16 g t).toInt) ∧ flag .of t = flag .cf t ∧
        Frame { regs := [g], flags := arithFlags, reads := rmReads16 rm s } s t))

/-- R314, R315: a division whose divisor is not zero and whose quotient fits gives quotient and remainder; the six
arithmetic flags are free. IDIV truncates toward zero, and its quotient's least value is the parameter's. -/
def Obligations.DivisionsInRangeGiveQuotientAndRemainder : Prop :=
  ∀ s : State,
    (∀ rm : RM8,
      let n := (reg16 .ax s).toNat
      let d := (rm8Value rm s).toNat
      d ≠ 0 → n / d ≤ 0xFF →
        Completes (.div (.b rm)) s (fun t => (reg8 .al t).toNat = n / d ∧ (reg8 .ah t).toNat = n % d ∧
          Frame { regs := [.ax], flags := arithFlags, reads := rmReads8 rm s } s t)) ∧
    (∀ rm : RM16,
      let n := (reg16 .dx s ++ reg16 .ax s).toNat
      let d := (rm16Value rm s).toNat
      d ≠ 0 → n / d ≤ 0xFFFF →
        Completes (.div (.w rm)) s (fun t => (reg16 .ax t).toNat = n / d ∧ (reg16 .dx t).toNat = n % d ∧
          Frame { regs := [.ax, .dx], flags := arithFlags, reads := rmReads16 rm s } s t)) ∧
    (∀ rm : RM8,
      let n := (reg16 .ax s).toInt
      let d := (rm8Value rm s).toInt
      d ≠ 0 → n.tdiv d ≤ 127 → (if s.params.idivAllowMostNegative then -128 else -127) ≤ n.tdiv d →
        Completes (.idiv (.b rm)) s (fun t => (reg8 .al t).toInt = n.tdiv d ∧ (reg8 .ah t).toInt = n.tmod d ∧
          Frame { regs := [.ax], flags := arithFlags, reads := rmReads8 rm s } s t)) ∧
    (∀ rm : RM16,
      let n := (reg16 .dx s ++ reg16 .ax s).toInt
      let d := (rm16Value rm s).toInt
      d ≠ 0 → n.tdiv d ≤ 32767 → (if s.params.idivAllowMostNegative then -32768 else -32767) ≤ n.tdiv d →
        Completes (.idiv (.w rm)) s (fun t => (reg16 .ax t).toInt = n.tdiv d ∧ (reg16 .dx t).toInt = n.tmod d ∧
          Frame { regs := [.ax, .dx], flags := arithFlags, reads := rmReads16 rm s } s t))

/-- R314, R315, R320, R765: a division by zero or one whose quotient does not fit, and AAM 0, take vector 0 with
the IP of the next instruction; the operands stay, and the six arithmetic flags are free afterwards. That the FLAGS
word pushed is the one of the instruction's start is the model's choice (log 13). -/
def Obligations.DivideErrorsTakeVectorZero : Prop :=
  ∀ s : State,
    (∀ rm : RM8,
      ((rm8Value rm s).toNat = 0 ∨ 0xFF < (reg16 .ax s).toNat / (rm8Value rm s).toNat) →
        Completes (.div (.b rm)) s (Vectored 0 s.ip arithFlags (rmReads8 rm s) (afterRead8 rm s) s)) ∧
    (∀ rm : RM16,
      ((rm16Value rm s).toNat = 0 ∨ 0xFFFF < (reg16 .dx s ++ reg16 .ax s).toNat / (rm16Value rm s).toNat) →
        Completes (.div (.w rm)) s (Vectored 0 s.ip arithFlags (rmReads16 rm s) (afterRead16 rm s) s)) ∧
    (∀ rm : RM8,
      let q := (reg16 .ax s).toInt.tdiv (rm8Value rm s).toInt
      ((rm8Value rm s).toInt = 0 ∨ 127 < q ∨ q < (if s.params.idivAllowMostNegative then -128 else -127)) →
        Completes (.idiv (.b rm)) s (Vectored 0 s.ip arithFlags (rmReads8 rm s) (afterRead8 rm s) s)) ∧
    (∀ rm : RM16,
      let q := (reg16 .dx s ++ reg16 .ax s).toInt.tdiv (rm16Value rm s).toInt
      ((rm16Value rm s).toInt = 0 ∨ 32767 < q ∨ q < (if s.params.idivAllowMostNegative then -32768 else -32767)) →
        Completes (.idiv (.w rm)) s (Vectored 0 s.ip arithFlags (rmReads16 rm s) (afterRead16 rm s) s)) ∧
    Completes (.aam 0#8) s (Vectored 0 s.ip arithFlags [] s s)

/-- R316 to R321: the decimal adjusts. `low` and `high` are the tests of R316 and R317; OF, and for AAA, AAS, AAM
and AAD the flags their rules leave undefined, are free. -/
def Obligations.DecimalAdjusts : Prop :=
  ∀ s : State,
    let al := reg8 .al s
    let low : Bool := decide (9 < al.toNat % 16) || flag .af s
    let high : Bool := decide (0x99 < al.toNat) || flag .cf s
    let fix : Nat := (if low then 6 else 0) + (if high then 0x60 else 0)
    Completes .daa s (fun t => reg8 .al t = BitVec.ofNat 8 (al.toNat + fix) ∧ flag .af t = low ∧ flag .cf t = high ∧
      SzpAre (reg8 .al t) t ∧ Frame { bytes := [.al], flags := arithFlags } s t) ∧
    Completes .das s (fun t => reg8 .al t = BitVec.ofInt 8 (al.toNat - fix) ∧ flag .af t = low ∧
      flag .cf t = (high || (low && decide (al.toNat < 6))) ∧
      SzpAre (reg8 .al t) t ∧ Frame { bytes := [.al], flags := arithFlags } s t) ∧
    Completes .aaa s (fun t => (reg8 .al t).toNat = (al.toNat + if low then 6 else 0) % 16 ∧
      reg8 .ah t = reg8 .ah s + BitVec.ofNat 8 low.toNat ∧ flag .af t = low ∧ flag .cf t = low ∧
      Frame { regs := [.ax], flags := arithFlags } s t) ∧
    Completes .aas s (fun t => (reg8 .al t).toNat = (al.toNat + if low then 10 else 0) % 16 ∧
      reg8 .ah t = reg8 .ah s - BitVec.ofNat 8 low.toNat ∧ flag .af t = low ∧ flag .cf t = low ∧
      Frame { regs := [.ax], flags := arithFlags } s t) ∧
    (∀ i : Byte, i ≠ 0 → Completes (.aam i) s (fun t => (reg8 .ah t).toNat = al.toNat / i.toNat ∧
      (reg8 .al t).toNat = al.toNat % i.toNat ∧ SzpAre (reg8 .al t) t ∧
      Frame { regs := [.ax], flags := arithFlags } s t)) ∧
    (∀ i : Byte, Completes (.aad i) s (fun t =>
      (reg8 .al t).toNat = (al.toNat + (reg8 .ah s).toNat * i.toNat) % 256 ∧ reg8 .ah t = 0 ∧
      SzpAre (reg8 .al t) t ∧ Frame { regs := [.ax], flags := arithFlags } s t))

/-! ## Logic and shifts -/

/-- R303, R370 to R374: AND, OR and XOR store the result at the destination of every form; TEST stores nothing.
CF and OF are clear, ZF, SF and PF the result's, and AF is free. -/
def Obligations.LogicOperations : Prop :=
  ∀ (s : State),
    (∀ f : AluForm,
      Completes (.and f) s (AluResult f (fun a b => a &&& b) (fun a b => LogicFlagsAre (a &&& b)) s) ∧
      Completes (.or f) s (AluResult f (fun a b => a ||| b) (fun a b => LogicFlagsAre (a ||| b)) s) ∧
      Completes (.xor f) s (AluResult f (fun a b => a ^^^ b) (fun a b => LogicFlagsAre (a ^^^ b)) s)) ∧
    (∀ (rm : RM8) (g : Reg8), Completes (.test (.ebGb rm g)) s (fun t => LogicFlagsAre (rm8Value rm s &&& reg8 g s) t ∧
      Frame { flags := arithFlags, reads := rmReads8 rm s } s t)) ∧
    (∀ (rm : RM16) (g : Reg16), Completes (.test (.ewGw rm g)) s (fun t =>
      LogicFlagsAre (rm16Value rm s &&& reg16 g s) t ∧ Frame { flags := arithFlags, reads := rmReads16 rm s } s t)) ∧
    (∀ i : Byte, Completes (.test (.alIb i)) s (fun t => LogicFlagsAre (reg8 .al s &&& i) t ∧
      Frame { flags := arithFlags } s t)) ∧
    (∀ i : Word, Completes (.test (.axIw i)) s (fun t => LogicFlagsAre (reg16 .ax s &&& i) t ∧
      Frame { flags := arithFlags } s t)) ∧
    (∀ (rm : RM8) (i : Byte), Completes (.test (.ebIb rm i)) s (fun t => LogicFlagsAre (rm8Value rm s &&& i) t ∧
      Frame { flags := arithFlags, reads := rmReads8 rm s } s t)) ∧
    (∀ (rm : RM16) (i : Word), Completes (.test (.ewIw rm i)) s (fun t => LogicFlagsAre (rm16Value rm s &&& i) t ∧
      Frame { flags := arithFlags, reads := rmReads16 rm s } s t))

/-- R376, R377, R382 to R384: the count is 1, CL or the immediate, masked by the parameter; a count of 0 reads the
operand and changes nothing, for each of the seven operations. SHL, SHR and SAR by n ≥ 1 give the result and the bit
last shifted out, in closed form, at every count up to 255; ZF, SF and PF are the result's; OF has its rule's value
when n = 1; AF is free, and OF when n > 1. -/
def Obligations.ShiftsByCount : Prop :=
  ∀ (s : State) (e : EOp) (c : ShiftCount),
    let n := shiftCount c s
    (n = ((match c with | .imm i => i | .one => 1#8 | .cl => reg8 .cl s) &&& s.params.shiftCountMask).toNat) ∧
    (n = 0 → ∀ i ∈ [Instr.rol e c, .ror e c, .rcl e c, .rcr e c, .shl e c, .shr e c, .sar e c],
      Completes i s (Frame { reads := match e with | .b rm => rmReads8 rm s | .w rm => rmReads16 rm s } s)) ∧
    (n ≠ 0 →
      Completes (.shl e c) s (UnaryResult e (fun x => x <<< n)
        (fun {w} x t => flag .cf t = (decide (n ≤ w) && x.getLsbD (w - n)) ∧ SzpAre (x <<< n) t ∧
          (n = 1 → flag .of t = (x.msb != (x <<< 1).msb))) arithFlags s) ∧
      Completes (.shr e c) s (UnaryResult e (fun x => x >>> n)
        (fun x t => flag .cf t = x.getLsbD (n - 1) ∧ SzpAre (x >>> n) t ∧ (n = 1 → flag .of t = x.msb)) arithFlags s) ∧
      Completes (.sar e c) s (UnaryResult e (fun x => x.sshiftRight n)
        (fun {w} x t => flag .cf t = (if n ≤ w then x.getLsbD (n - 1) else x.msb) ∧ SzpAre (x.sshiftRight n) t ∧
          (n = 1 → flag .of t = false)) arithFlags s))

/-- R377 to R381: ROL, ROR, RCL and RCR by n ≥ 1: the rotation of the operand, for RCL and RCR of CF and the
operand together; only CF and OF change; OF has its rule's value when n = 1 and is free when n > 1. -/
def Obligations.RotatesByCount : Prop :=
  ∀ (s : State) (e : EOp) (c : ShiftCount),
    let n := shiftCount c s
    let carry (x : Bool) : BitVec 1 := BitVec.ofBool x
    n ≠ 0 →
    Completes (.rol e c) s (UnaryResult e (fun x => x.rotateLeft n)
      (fun {w} x t => flag .cf t = (x.rotateLeft n).getLsbD 0 ∧
        (n = 1 → flag .of t = ((x.rotateLeft n).getLsbD (w - 1) ^^ flag .cf t))) [.cf, .of] s) ∧
    Completes (.ror e c) s (UnaryResult e (fun x => x.rotateRight n)
      (fun {w} x t => flag .cf t = (x.rotateRight n).msb ∧
        (n = 1 → flag .of t = ((x.rotateRight n).getLsbD (w - 1) ^^ (x.rotateRight n).getLsbD (w - 2)))) [.cf, .of] s) ∧
    Completes (.rcl e c) s (UnaryResult e (fun {w} x => ((carry (flag .cf s) ++ x).rotateLeft n).setWidth w)
      (fun {w} x t => flag .cf t = ((carry (flag .cf s) ++ x).rotateLeft n).msb ∧
        (n = 1 → flag .of t = (((carry (flag .cf s) ++ x).rotateLeft n).getLsbD (w - 1) ^^ flag .cf t))) [.cf, .of] s) ∧
    Completes (.rcr e c) s (UnaryResult e (fun {w} x => ((carry (flag .cf s) ++ x).rotateRight n).setWidth w)
      (fun x t => flag .cf t = ((carry (flag .cf s) ++ x).rotateRight n).msb ∧
        (n = 1 → flag .of t = (flag .cf s ^^ x.msb))) [.cf, .of] s)

/-! ## Strings -/

/-- R420, R422 to R426, R567, R568: one element of each string instruction, with no repeat prefix: the bytes read,
the byte or word stored or the flags of the comparison, the pointers moved by the element's size in the direction
of DF. INS stores what the port gives; OUTS writes the port after its read. -/
def Obligations.StringElements : Prop :=
  ∀ s : State, s.rep = none →
    let src := lin (sreg (s.segOverride.getD .ds) s) (reg16 .si s)
    let dst := lin (sreg .es s) (reg16 .di s)
    let step (n : Word) : Word := if flag .df s then -n else n
    let dx := reg16 .dx s
    Completes .movsb s (fun t => SameMemory t (write8 dst (peek8 src s) (touch8 src s)) ∧
      reg16 .si t = reg16 .si s + step 1 ∧ reg16 .di t = reg16 .di s + step 1 ∧
      Frame { regs := [.si, .di], mem := [dst], reads := [src] } s t) ∧
    Completes .movsw s (fun t => SameMemory t (write16 dst (peek16 src s) (touch16 src s)) ∧
      reg16 .si t = reg16 .si s + step 2 ∧ reg16 .di t = reg16 .di s + step 2 ∧
      Frame { regs := [.si, .di], mem := wordAt dst, reads := wordAt src } s t) ∧
    Completes .cmpsb s (fun t => SubFlagsAre (peek8 src s) (peek8 dst s) false t ∧
      reg16 .si t = reg16 .si s + step 1 ∧ reg16 .di t = reg16 .di s + step 1 ∧
      Frame { regs := [.si, .di], flags := arithFlags, reads := [src, dst] } s t) ∧
    Completes .cmpsw s (fun t => SubFlagsAre (peek16 src s) (peek16 dst s) false t ∧
      reg16 .si t = reg16 .si s + step 2 ∧ reg16 .di t = reg16 .di s + step 2 ∧
      Frame { regs := [.si, .di], flags := arithFlags, reads := wordAt src ++ wordAt dst } s t) ∧
    Completes .scasb s (fun t => SubFlagsAre (reg8 .al s) (peek8 dst s) false t ∧
      reg16 .di t = reg16 .di s + step 1 ∧ Frame { regs := [.di], flags := arithFlags, reads := [dst] } s t) ∧
    Completes .scasw s (fun t => SubFlagsAre (reg16 .ax s) (peek16 dst s) false t ∧
      reg16 .di t = reg16 .di s + step 2 ∧ Frame { regs := [.di], flags := arithFlags, reads := wordAt dst } s t) ∧
    Completes .lodsb s (fun t => reg8 .al t = peek8 src s ∧ reg16 .si t = reg16 .si s + step 1 ∧
      Frame { regs := [.si], bytes := [.al], reads := [src] } s t) ∧
    Completes .lodsw s (fun t => reg16 .ax t = peek16 src s ∧ reg16 .si t = reg16 .si s + step 2 ∧
      Frame { regs := [.si, .ax], reads := wordAt src } s t) ∧
    Completes .stosb s (fun t => SameMemory t (write8 dst (reg8 .al s) s) ∧ reg16 .di t = reg16 .di s + step 1 ∧
      Frame { regs := [.di], mem := [dst] } s t) ∧
    Completes .stosw s (fun t => SameMemory t (write16 dst (reg16 .ax s) s) ∧ reg16 .di t = reg16 .di s + step 2 ∧
      Frame { regs := [.di], mem := wordAt dst } s t) ∧
    (let r := portRead8 dx s
     let r' := portRead8 (dx + 1) r.2
     Completes .insb s (fun t => SameMemory t (write8 dst r.1 r.2) ∧ reg16 .di t = reg16 .di s + step 1 ∧
        Frame { regs := [.di], mem := [dst] } r.2 t) ∧
     Completes .insw s (fun t => SameMemory t (write16 dst (r'.1 ++ r.1) r'.2) ∧ reg16 .di t = reg16 .di s + step 2 ∧
        Frame { regs := [.di], mem := wordAt dst } r'.2 t)) ∧
    (let u := portWrite8 dx (peek8 src s) (touch8 src s)
     let v := portWrite8 (dx + 1) (peek8 (src + 1) s) (portWrite8 dx (peek8 src s) (touch16 src s))
     Completes .outsb s (fun t => reg16 .si t = reg16 .si s + step 1 ∧ Frame { regs := [.si] } u t) ∧
     Completes .outsw s (fun t => reg16 .si t = reg16 .si s + step 2 ∧ Frame { regs := [.si] } v t))

/-- R421, R427: under a repeat prefix a string instruction with CX = 0 does nothing; with CX ≠ 0 it does one element,
takes CX down by one, and goes on as the same instruction from there, but CMPS and SCAS stop when ZF is clear under
REPE or set under REPNE. `u` is the state after the element. -/
def Obligations.RepeatPrefixesLoop : Prop :=
  ∀ (s : State) (p : RepPrefix), s.rep = some p →
    ∀ i ∈ [Instr.movsb, .movsw, .cmpsb, .cmpsw, .scasb, .scasw, .lodsb, .lodsw, .stosb, .stosw, .insb, .insw, .outsb,
        .outsw],
      (reg16 .cx s = 0 → exec i s = .next s) ∧
      (reg16 .cx s ≠ 0 → ∃ u, exec i (s.setRep none) = .next (u.setRep none) ∧ u.rep = some p ∧
        let v := setReg16 .cx (reg16 .cx s - 1) u
        exec i s =
          if i ∈ [Instr.cmpsb, .cmpsw, .scasb, .scasw] ∧ flag .zf v = (p == .repne) then .next v else exec i v)

/-- R421 to R426, R567, R568: a repeated MOVS, LODS, STOS, INS or OUTS ends with CX = 0 and its pointers moved by CX
elements, and stores to those elements alone; no flag changes; LODS leaves the last element in AL or AX; MOVS, LODS and
STOS change nothing else, in the block's devices too, and INS and OUTS what their port accesses do. A repeated CMPS or SCAS ends after the first k
elements, where CX is 0 or the last one met the exit condition and none before it did; its flags are the last
comparison's and no byte changes. `element` is the offset of element k from a pointer. -/
def Obligations.RepeatedStringsRunToTheEnd : Prop :=
  ∀ (s : State) (p : RepPrefix), s.rep = some p →
    let count := (reg16 .cx s).toNat
    let element (ptr n : Word) (k : Nat) : Word := ptr + BitVec.ofNat 16 k * (if flag .df s then -n else n)
    let src (n : Word) (k : Nat) := lin (sreg (s.segOverride.getD .ds) s) (element (reg16 .si s) n k)
    let dst (n : Word) (k : Nat) := lin (sreg .es s) (element (reg16 .di s) n k)
    let bytes (n : Word) (a : Linear) : List Linear := if n = 1 then [a] else wordAt a
    let stored (n : Word) (stores : Bool) : List Linear :=
      if stores then (List.range count).flatMap fun k => bytes n (dst n k) else []
    (∀ x ∈ [(Instr.movsb, true, true, 1#16), (.movsw, true, true, 2#16), (.lodsb, true, false, 1#16),
        (.lodsw, true, false, 2#16), (.stosb, false, true, 1#16), (.stosw, false, true, 2#16),
        (.insb, false, true, 1#16), (.insw, false, true, 2#16), (.outsb, true, false, 1#16),
        (.outsw, true, false, 2#16)],
      Completes x.1 s (fun t => reg16 .cx t = 0 ∧
        reg16 .si t = (if x.2.1 then element (reg16 .si s) x.2.2.2 count else reg16 .si s) ∧
        reg16 .di t = (if x.2.2.1 then element (reg16 .di s) x.2.2.2 count else reg16 .di s) ∧
        (∀ r, r ∉ [Reg16.ax, .cx, .si, .di] → reg16 r t = reg16 r s) ∧
        (x.1 ∉ [Instr.lodsb, .lodsw] → reg16 .ax t = reg16 .ax s) ∧
        t.sregs = s.sregs ∧ t.flags = s.flags ∧ t.ip = s.ip ∧ t.run = s.run ∧ t.readonly = s.readonly ∧
        (x.1 ∈ [Instr.lodsb, .lodsw] → count ≠ 0 → if x.1 = .lodsb then reg8 .al t = peek8 (src 1 (count - 1)) s
          else reg16 .ax t = peek16 (src 2 (count - 1)) s) ∧
        (x.1 ∉ [Instr.outsb, .outsw] → KeepsMemory (stored x.2.2.2 x.2.2.1) s t) ∧
        (x.1 ∉ [Instr.insb, .insw, .outsb, .outsw] →
          Frame { regs := if x.1 = .lodsw then [.ax, .cx, .si] else [.cx, .si, .di],
                  bytes := if x.1 = .lodsb then [.al] else [], mem := stored x.2.2.2 x.2.2.1,
                  reads := if x.2.1 then (List.range count).flatMap fun k => bytes x.2.2.2 (src x.2.2.2 k) else [] }
            s t) ∧
        (x.1 ∈ [Instr.outsb, .outsw] → t.ram = s.ram ∧ t.video.planes = s.video.planes))) ∧
    (∀ x ∈ [(Instr.cmpsb, true, 1#16), (.cmpsw, true, 2#16), (.scasb, false, 1#16), (.scasw, false, 2#16)],
      let a (k : Nat) : Word :=
        if x.2.1 then (if x.2.2 = 1 then (peek8 (src 1 k) s).setWidth 16 else peek16 (src 2 k) s)
        else if x.2.2 = 1 then (reg8 .al s).setWidth 16 else reg16 .ax s
      let b (k : Nat) : Word := if x.2.2 = 1 then (peek8 (dst 1 k) s).setWidth 16 else peek16 (dst 2 k) s
      let exits (k : Nat) : Prop := (a k == b k) = (p == .repne)
      Completes x.1 s (fun t => ∃ k, k ≤ count ∧ (reg16 .cx t).toNat = count - k ∧
        reg16 .si t = (if x.2.1 then element (reg16 .si s) x.2.2 k else reg16 .si s) ∧
        reg16 .di t = element (reg16 .di s) x.2.2 k ∧
        (k ≠ count → k ≠ 0 ∧ exits (k - 1)) ∧ (∀ j, j + 1 < k → ¬ exits j) ∧
        (k = 0 → t.flags = s.flags) ∧
        (k ≠ 0 → if x.2.2 = 1 then SubFlagsAre ((a (k - 1)).setWidth 8) ((b (k - 1)).setWidth 8) false t
          else SubFlagsAre (a (k - 1)) (b (k - 1)) false t) ∧
        Frame { regs := [.cx, .si, .di], flags := arithFlags,
                reads := (List.range k).flatMap fun j =>
                  (if x.2.1 then bytes x.2.2 (src x.2.2 j) else []) ++ bytes x.2.2 (dst x.2.2 j) } s t))

/-! ## Control transfer -/

/-- R460 to R464, R473 to R493: a jump goes to its target: relative to the IP after the instruction, absolute, or the
word or far pointer of its operand, both words of which are read before CS changes. A conditional jump goes there when
its condition holds and else changes nothing; the loops take CX down by one first; JCXZ leaves CX. -/
def Obligations.JumpsGoToTheirTargets : Prop :=
  (∀ s : State,
      (∀ rel : Byte, Completes (.jmpShort rel) s (fun t =>
        (t.ip.toNat : Int) = (s.ip.toNat + rel.toInt) % 65536 ∧ Frame { ip := true } s t)) ∧
      (∀ rel : Word, Completes (.jmpNear rel) s (fun t =>
        (t.ip.toNat : Int) = (s.ip.toNat + rel.toInt) % 65536 ∧ Frame { ip := true } s t)) ∧
      (∀ off seg : Word, Completes (.jmpFar off seg) s (fun t => t.ip = off ∧ sreg .cs t = seg ∧
        Frame { sregs := [.cs], ip := true } s t)) ∧
      (∀ rm : RM16, Completes (.jmpE rm) s (fun t => t.ip = rm16Value rm s ∧
        Frame { ip := true, reads := rmReads16 rm s } s t)) ∧
      (∀ m : MemOp, Completes (.jmpM (.mem m)) s (fun t => t.ip = peek16 (ea m s) s ∧ sreg .cs t = peek16 (ea m s + 2) s ∧
        Frame { sregs := [.cs], ip := true, reads := wordAt (ea m s) ++ wordAt (ea m s + 2) } s t))) ∧
  (∀ (s : State) (rel : Byte),
      let cf := flag .cf s; let zf := flag .zf s; let sf := flag .sf s; let pf := flag .pf s; let of := flag .of s
      let target := s.ip + rel.signExtend 16
      let less := setReg16 .cx (reg16 .cx s - 1) s
      (∀ x ∈ [(Instr.jo rel, of), (.jno rel, !of), (.jb rel, cf), (.jnb rel, !cf), (.jz rel, zf), (.jnz rel, !zf),
          (.jbe rel, cf || zf), (.ja rel, !cf && !zf), (.js rel, sf), (.jns rel, !sf), (.jp rel, pf), (.jnp rel, !pf),
          (.jl rel, sf != of), (.jge rel, sf == of), (.jle rel, zf || sf != of), (.jg rel, !zf && sf == of),
          (.jcxz rel, reg16 .cx s == 0)],
        exec x.1 s = .next (if x.2 then s.setIp target else s)) ∧
      (∀ x ∈ [(Instr.loop rel, reg16 .cx s != 1), (.loopz rel, reg16 .cx s != 1 && zf), (.loopnz rel, reg16 .cx s != 1 && !zf)],
        exec x.1 s = .next (if x.2 then less.setIp target else less)))

/-- R465 to R472, R497: the calls push the IP after the instruction, far calls CS before it, and go to their targets; a
target in a register or in memory is read before the pushes. The returns take IP, and then CS, and then the FLAGS word,
from the stack's top upwards, and release as many bytes more as they say. -/
def Obligations.CallsAndReturns : Prop :=
  (∀ s : State,
      (∀ rel : Word, ∃ u, Pushed s.ip [] s s u ∧ exec (.callNear rel) s = .next (u.setIp (s.ip + rel))) ∧
      (∀ rm : RM16, ∃ u, Pushed s.ip (rmReads16 rm s) (afterRead16 rm s) s u ∧
        exec (.callE rm) s = .next (u.setIp (rm16Value rm s))) ∧
      (∀ off seg : Word, ∃ u v, Pushed (sreg .cs s) [] s s u ∧ Pushed s.ip [] u u v ∧
        exec (.callFar off seg) s = .next (setSreg .cs seg (v.setIp off))) ∧
      (∀ m : MemOp, ∃ u v,
        Pushed (sreg .cs s) (wordAt (ea m s) ++ wordAt (ea m s + 2)) (touch16 (ea m s + 2) (touch16 (ea m s) s)) s u ∧
        Pushed s.ip [] u u v ∧
        exec (.callM (.mem m)) s = .next (setSreg .cs (peek16 (ea m s + 2) s) (v.setIp (peek16 (ea m s) s))))) ∧
  (∀ s : State,
      let word (k : Word) : Linear := lin (sreg .ss s) (reg16 .sp s + k)
      Completes .ret s (fun t => t.ip = peek16 (word 0) s ∧ reg16 .sp t = reg16 .sp s + 2 ∧
        Frame { regs := [.sp], ip := true, reads := wordAt (word 0) } s t) ∧
      (∀ n : Word, Completes (.retImm n) s (fun t => t.ip = peek16 (word 0) s ∧ reg16 .sp t = reg16 .sp s + 2 + n ∧
        Frame { regs := [.sp], ip := true, reads := wordAt (word 0) } s t)) ∧
      Completes .retf s (fun t => t.ip = peek16 (word 0) s ∧ sreg .cs t = peek16 (word 2) s ∧
        reg16 .sp t = reg16 .sp s + 4 ∧
        Frame { regs := [.sp], sregs := [.cs], ip := true, reads := wordAt (word 0) ++ wordAt (word 2) } s t) ∧
      (∀ n : Word, Completes (.retfImm n) s (fun t => t.ip = peek16 (word 0) s ∧ sreg .cs t = peek16 (word 2) s ∧
        reg16 .sp t = reg16 .sp s + 4 + n ∧
        Frame { regs := [.sp], sregs := [.cs], ip := true, reads := wordAt (word 0) ++ wordAt (word 2) } s t)) ∧
      Completes .iret s (fun t => t.ip = peek16 (word 0) s ∧ sreg .cs t = peek16 (word 2) s ∧
        t.flags = .ofWord (peek16 (word 4) s) ∧ reg16 .sp t = reg16 .sp s + 6 ∧
        Frame { regs := [.sp], sregs := [.cs], flags := [.cf, .pf, .af, .zf, .sf, .tf, .if, .df, .of], ip := true,
                reads := wordAt (word 0) ++ wordAt (word 2) ++ wordAt (word 4) } s t))

/-! ## Interrupts -/

/-- R494 to R496, R563, R760, R761, R763, R766: INT n that no short circuit serves, INT3, INTO with OF set and BOUND
out of range run the vectored sequence: FLAGS, CS and the return IP pushed, IF and TF clear, IP and CS from the
vector, the CPU running. INTO with OF clear does nothing, and BOUND in range only reads its bounds. -/
def Obligations.InterruptsEnterTheirVector : Prop :=
  ∀ s : State,
    (∀ n : Byte, shortCircuited n s = false → Completes (.int n) s (Vectored n s.ip [] [] s s)) ∧
    Completes .int3 s (Vectored 3 s.ip [] [] s s) ∧
    (flag .of s = true → Completes .into s (Vectored 4 s.ip [] [] s s)) ∧
    (flag .of s = false → exec .into s = .next s) ∧
    (∀ (g : Reg16) (m : MemOp),
      let lo := (peek16 (ea m s) s).toInt
      let hi := (peek16 (ea m s + 2) s).toInt
      let reads := wordAt (ea m s) ++ wordAt (ea m s + 2)
      (lo ≤ (reg16 g s).toInt ∧ (reg16 g s).toInt ≤ hi → Completes (.bound g (.mem m)) s (Frame { reads := reads } s)) ∧
      ((reg16 g s).toInt < lo ∨ hi < (reg16 g s).toInt → Completes (.bound g (.mem m)) s
        (Vectored 5 s.instrIP [] reads (touch16 (ea m s + 2) (touch16 (ea m s) s)) s)))

/-! ## Stack frames -/

/-- R561, R562, R569, R570: PUSHA stores AX, CX, DX, BX, the SP of the instruction's start, BP, SI and DI downwards;
POPA loads all but SP from the same places; ENTER pushes BP, for a nesting level L > 0 the L - 1 words below the old
BP and the new frame pointer, and leaves BP there and SP `size` bytes below the pushes; LEAVE undoes it. -/
def Obligations.StackFrames : Prop :=
  ∀ s : State,
    let slot (k : Nat) : Linear := lin (sreg .ss s) (reg16 .sp s - BitVec.ofNat 16 (2 * k + 2))
    let word (k : Nat) : Linear := lin (sreg .ss s) (reg16 .sp s + BitVec.ofNat 16 (2 * k))
    Completes .pusha s (fun t => reg16 .sp t = reg16 .sp s - 16 ∧
      SameMemory t ([Reg16.ax, .cx, .dx, .bx, .sp, .bp, .si, .di].zipIdx.foldl
        (fun u x => write16 (slot x.2) (reg16 x.1 s) u) s) ∧
      Frame { regs := [.sp], mem := (List.range 8).flatMap fun k => wordAt (slot k) } s t) ∧
    Completes .popa s (fun t => reg16 .sp t = reg16 .sp s + 16 ∧
      (∀ x ∈ [(Reg16.di, 0), (.si, 1), (.bp, 2), (.bx, 4), (.dx, 5), (.cx, 6), (.ax, 7)],
        reg16 x.1 t = peek16 (word x.2) s) ∧
      Frame { regs := [.ax, .cx, .dx, .bx, .sp, .bp, .si, .di],
              reads := (List.range 8).flatMap fun k => wordAt (word k) } s t) ∧
    (∀ (size : Word) (level : Byte),
      let l := level.toNat % 32
      let f := reg16 .sp s - 2
      let below (k : Nat) : Linear := lin (sreg .ss s) (reg16 .bp s - BitVec.ofNat 16 (2 * k + 2))
      let pushed := write16 (slot 0) (reg16 .bp s) s
      let copied := (List.range (l - 1)).foldl
        (fun u k => write16 (slot (k + 1)) (peek16 (below k) u) (touch16 (below k) u)) pushed
      Completes (.enter size level) s (fun t =>
        reg16 .bp t = f ∧ reg16 .sp t = f - BitVec.ofNat 16 (2 * l) - size ∧
        SameMemory t (if l = 0 then pushed else write16 (slot l) f copied) ∧
        Frame { regs := [.sp, .bp], mem := (List.range (l + 1)).flatMap fun k => wordAt (slot k),
                reads := (List.range (l - 1)).flatMap fun k => wordAt (below k) } s t)) ∧
    Completes .leave s (fun t => reg16 .bp t = peek16 (lin (sreg .ss s) (reg16 .bp s)) s ∧
      reg16 .sp t = reg16 .bp s + 2 ∧
      Frame { regs := [.sp, .bp], reads := wordAt (lin (sreg .ss s) (reg16 .bp s)) } s t)

/-! ## Run states -/

/-- R14, R199, R531, R532, R770, R863, R873: an encoding the spec calls Fatal changes the run state and nothing else, and
no other instruction makes the run fatal; then a step is a fault. A stopped machine stays; a halted one lets slots
pass. After either end of the run the host's ejects are done, and shutdown ejects every drive. That the Fatal point is
a next state and the fault is the step after it, that a stopped machine stutters, that the ejects are events then
too, and that the host calls step(n) again by itself between batches (R871), are the model's choices (logs 8, 9, 24 and
7). -/
def Obligations.FatalEncodingsStopTheRun : Prop :=
  (∀ (i : Instr) (s : State), isFatal i = true → exec i s = .next (s.setRun (.fatal .unmappedOpcode))) ∧
  (∀ (i : Instr) (s t : State) (r : FatalReason), i.wf s.params.ext186 = true → isFatal i = false →
    exec i s = .next t → t.run = .fatal r → s.run = .fatal r) ∧
  (∀ s : State, (∀ d rest, s.events ≠ .eject d :: rest) → (∀ rest, s.events ≠ .shutdown :: rest) →
    (∀ r, s.run = .fatal r → step s = .fault (.fatalStop r)) ∧ (s.run = .stopped → step s = .next s)) ∧
  (∀ (s : State) (rest : List HostEvent), (∃ r, s.run = .fatal r) ∨ s.run = .stopped →
    (∀ d, s.events = .eject d :: rest → step s = .next (eject d (s.setEvents rest))) ∧
    (s.events = .shutdown :: rest → ∃ t, step s = .next t ∧
      (∀ d, t.disk.at d = { s.disk.at d with inserted := false }) ∧
      t.disk.lastAh = s.disk.lastAh ∧ t.disk.lastCf = s.disk.lastCf ∧ t.setDisk s.disk = s.setEvents rest)) ∧
  (∀ (s : State) (k : Nat), s.run = .halted → s.events = [] →
    (s.batch = some (k + 1) ∨ s.batch = none ∧ k = s.params.moreSlots) → step s = .next (s.setBatch (some k)))

/-- R38, R173, R776: what follows an instruction, u being the state it left and t the TF of its start: both prefix
slots are cleared; then, if TF was set and the machine runs or is halted, vector 1 is entered with the IP reached;
a fatal state takes no trap, and its batch ends (R770). That the slots are cleared in a fatal state too, and IP0 with
them, is the model's choice (logs 16 and 15). -/
def Obligations.SingleStepTrapFollowsTheInstruction : Prop :=
  ∀ (u : State) (t : Bool),
    let v := ((u.setSegOverride none).setRep none).setInstrIP 0
    (t = true → u.run = .running ∨ u.run = .halted →
      ∃ w, finishInstr t (.next u) = .next w ∧ Vectored 1 u.ip [] [] v v w) ∧
    (t = false → u.run = .running ∨ u.run = .halted → finishInstr t (.next u) = .next v) ∧
    ((∃ r, u.run = .fatal r) → finishInstr t (.next u) = .next (v.setBatch none))

/-! ## The host -/

/-- R50, R790, R807, R860, R862, R871: the boundary of a batch whose slots are over. A hard reset first gives the
CPU state of R50, the general registers free, and keeps memory and every device; then a cleared `running` flag stops the
machine; else, with IF set and a request pending and unmasked, the lowest one is taken: its IRR bit moves to ISR, and
vector icw2 + b is entered with the IP of the boundary, as INT would enter it; else nothing happens. That the boundary
is a step of its own is the model's choice (log 7). -/
def Obligations.BatchBoundaries : Prop :=
  ∀ s : State, s.run = .running ∨ s.run = .halted → s.events = [] → s.batch = some 0 →
    let u := s.setBatch none
    let pending := s.pic.irr &&& ~~~s.pic.imr
    (s.hardReset = false → s.hostRunning = false → step s = .next (u.setRun .stopped)) ∧
    (s.hardReset = false → s.hostRunning = true → flag .if s = false ∨ pending = 0 → step s = .next u) ∧
    (s.hardReset = false → s.hostRunning = true → flag .if s = true → ∀ b : Nat, b < 8 → pending.getLsbD b = true →
      (∀ j, j < b → pending.getLsbD j = false) →
      step s = exec (.int (s.pic.icw2 + BitVec.ofNat 8 b))
        (u.setPic { s.pic with irr := s.pic.irr &&& ~~~(1#8 <<< b), isr := s.pic.isr ||| (1#8 <<< b) })) ∧
    (s.hardReset = true → ∃ t, step s = .next t ∧
      sreg .cs t = 0xFFFF#16 ∧ t.ip = 0 ∧ sreg .ds t = 0 ∧ sreg .es t = 0 ∧ sreg .ss t = 0 ∧
      (∀ k, flag k t = false) ∧ t.segOverride = none ∧ t.rep = none ∧ t.hardReset = false ∧
      t.run = (if s.hostRunning then .running else .stopped) ∧
      t.ram = s.ram ∧ t.readonly = s.readonly ∧ t.shadow = s.shadow ∧ t.pic = s.pic ∧ t.disk = s.disk ∧
      t.video = s.video ∧ t.hostRunning = s.hostRunning ∧ t.bootDrive = s.bootDrive ∧ t.batch = none ∧
      t.events = [] ∧ t.params = s.params)

/-- R113, R601 to R603, R810, R811, R851, R853, R870, R871: the host's operations, each one step between two
instructions, taken from a list of events (the model's choice, log 7). Those that may come any time are done, in a
batch or not; the set-up operations and step(n) are done between batches, and inside one they wait while it goes on to
its boundary (`advance` is what a step does with no event listed), so that no step inside a batch changes a read-only
bit, the boot drive, or which drives are inserted with which size and geometry. That ROM bytes go straight into RAM,
past the read-only mask and the aperture, and wrap at 2^20, is the model's choice (log 19), and so are the bytes of a
backing store that the image does not list, 0, and the dropping of contents past its size (log 20), and that a raw
device's sects and heads may be 0 (log 28). -/
def Obligations.HostOperations : Prop :=
  (∀ s : State, s.run = .running ∨ s.run = .halted → s.events = [] → step s = advance s) ∧
  (∀ (s : State) (e : HostEvent) (rest : List HostEvent), s.run = .running ∨ s.run = .halted → s.events = e :: rest →
    e = .shutdown ∨ s.batch ≠ none ∧ ((∃ more, e = .step more) ∨ (∃ base bytes, e = .loadRom base bytes) ∨
      (∃ d size contents, e = .insertImage d size contents) ∨
      (∃ d size cyls sects heads contents, e = .insertRaw d size cyls sects heads contents) ∨ (∃ d, e = .eject d) ∨
      ∃ d, e = .setBootDrive d) → step s = advance s) ∧
  (∀ s t : State, s.run = .running ∨ s.run = .halted → s.batch ≠ none → step s = .next t →
    t.bootDrive = s.bootDrive ∧ t.readonly = s.readonly ∧
    ∀ d, { t.disk.at d with backing := (s.disk.at d).backing } = s.disk.at d) ∧
  (∀ (s : State) (e : HostEvent) (rest : List HostEvent), s.run = .running ∨ s.run = .halted → s.events = e :: rest →
    let u := s.setEvents rest
    (e = .pass → step s = if s.batch = none then .next u else advance u) ∧
    (∀ irq, e = .raise irq → step s = .next (u.setPic
      { s.pic with irr := s.pic.irr ||| (1#8 <<< irq.toNat), kbdAck := s.pic.kbdAck || irq == 1#3 })) ∧
    (∀ k, e = .addTicks k → step s = .next (u.setPic { s.pic with makeupTicks := s.pic.makeupTicks + k })) ∧
    (e = .stop → step s = .next (u.setHostRunning false)) ∧
    (e = .hardReset → step s = .next (u.setHardReset true))) ∧
  (∀ (s : State) (e : HostEvent) (rest : List HostEvent), s.run = .running ∨ s.run = .halted → s.events = e :: rest →
    s.batch = none →
    let u := s.setEvents rest
    (∀ more, e = .step more → step s = advance (u.setBatch (some (more + 1)))) ∧
    (∀ d, e = .setBootDrive d → step s = .next (u.setBootDrive d)) ∧
    (∀ base bytes, e = .loadRom base bytes → bytes.length ≤ 2 ^ 20 → ∃ t, step s = .next t ∧
      (∀ a : Linear, let k := (a - base).toNat
        (k < bytes.length → ramGet t.ram a = bytes.getD k 0 ∧ isReadonly a t = true) ∧
        (bytes.length ≤ k → ramGet t.ram a = ramGet s.ram a ∧ isReadonly a t = isReadonly a s)) ∧
      (t.setRam s.ram).setReadonly s.readonly = u) ∧
    (∀ d size contents, e = .insertImage d size contents → ∃ t, step s = .next t ∧
      (t.disk.at d).inserted = true ∧ (t.disk.at d).raw = false ∧ (t.disk.at d).size = size ∧
      (∀ n, (t.disk.at d).backing.get 0#8 n = if n < size then Table.get 0#8 contents.reverse n else 0) ∧
      ((t.disk.at d).cyls, (t.disk.at d).sects, (t.disk.at d).heads) =
        (if 0x80 ≤ d.toNat then (size / (63 * 16 * 512), 63, 16)
         else if size = 163840 then (40, 8, 1) else if size = 368640 then (40, 9, 2)
         else if size = 737280 then (80, 9, 2) else if size = 1228800 then (80, 15, 2) else (80, 18, 2)) ∧
      (∀ n, n ≠ d → t.disk.at n = s.disk.at n) ∧ t.disk.lastAh = s.disk.lastAh ∧ t.disk.lastCf = s.disk.lastCf ∧
      t.setDisk s.disk = u) ∧
    (∀ d size cyls sects heads contents, e = .insertRaw d size cyls sects heads contents → ∃ t, step s = .next t ∧
      (t.disk.at d).inserted = true ∧ (t.disk.at d).raw = true ∧ (t.disk.at d).size = size ∧
      (t.disk.at d).cyls = cyls ∧ (t.disk.at d).sects = sects ∧ (t.disk.at d).heads = heads ∧
      (∀ n, (t.disk.at d).backing.get 0#8 n = if n < size then Table.get 0#8 contents.reverse n else 0) ∧
      (∀ n, n ≠ d → t.disk.at n = s.disk.at n) ∧ t.disk.lastAh = s.disk.lastAh ∧ t.disk.lastCf = s.disk.lastCf ∧
      t.setDisk s.disk = u) ∧
    (∀ d, e = .eject d → ∃ t, step s = .next t ∧ t.disk.at d = { s.disk.at d with inserted := false } ∧
      (∀ n, n ≠ d → t.disk.at n = s.disk.at n) ∧ t.disk.lastAh = s.disk.lastAh ∧ t.disk.lastCf = s.disk.lastCf ∧
      t.setDisk s.disk = u))

/-- R801 to R806: the PIC's ports. A command is ICW1, OCW3, an EOI or nothing, tested in that order; an EOI clears
the lowest set bit of ISR; a data byte goes to the next ICW of a sequence under way, ICW3 being skipped in single
mode, and else to IMR. -/
def Obligations.PicPortsProgramThePic : Prop :=
  ∀ (s : State) (v : Byte),
    let p := s.pic
    let command := portWrite8 0x20#16 v s
    let data := portWrite8 0x21#16 v s
    let ocw3 := { p with readIsr := if v.getLsbD 1 then
      (match s.params.picOcw3Read with | .byRisBit => v.getLsbD 0 | .toggle => !p.readIsr) else p.readIsr }
    (portRead8 0x20#16 s = (if p.readIsr then p.isr else p.irr, s) ∧ portRead8 0x21#16 s = (p.imr, s)) ∧
    (v.getLsbD 4 = true → command = s.setPic { p with imr := 0, icw1 := v, step := .icw2 }) ∧
    (v.getLsbD 4 = false → v &&& 0x98#8 = 0x08#8 → command =
      if s.params.picOcw3FallThrough = true ∧ v.getLsbD 5 = true then portWrite8 0x20#16 0x20#8 (s.setPic ocw3)
      else s.setPic ocw3) ∧
    (v.getLsbD 4 = false → v &&& 0x98#8 ≠ 0x08#8 → v.getLsbD 5 = true →
      (p.isr = 0 → command = s.setPic { p with kbdAck := false }) ∧
      (∀ b : Nat, b < 8 → p.isr.getLsbD b = true → (∀ j, j < b → p.isr.getLsbD j = false) → command = s.setPic
        { p with
          isr := p.isr &&& ~~~(1#8 <<< b), kbdAck := false
          irr := if b = 0 ∧ 0 < p.makeupTicks then p.irr ||| 1#8 else p.irr
          makeupTicks := if b = 0 ∧ 0 < p.makeupTicks then p.makeupTicks - 1 else p.makeupTicks })) ∧
    (v.getLsbD 4 = false → v &&& 0x98#8 ≠ 0x08#8 → v.getLsbD 5 = false → command = s) ∧
    (p.step = .complete → data = s.setPic { p with imr := v }) ∧
    (p.step = .icw2 → data = s.setPic { p with icw2 := v, step := .icw3 }) ∧
    (p.step = .icw3 → p.icw1.getLsbD 1 = false → data = s.setPic { p with icw3 := v, step := .icw4 }) ∧
    (p.step = .icw3 → p.icw1.getLsbD 1 = true → data = s.setPic { p with icw4 := v, step := .complete }) ∧
    (p.step = .icw4 → data = s.setPic { p with icw4 := v, step := .complete })

/-! ## The short-circuited services -/

/-- R611 to R613, R616 to R618, R627, R762: INT 13h served in the block, for every AH but 02 and 03: reset and format
succeed, 01 answers the drive's last status, 08 the drive's parameters, any other AH sets CF. Nothing is pushed, no
drive changes, and for a drive with bit 7 set AH is mirrored at 0x474. That 08 answers a geometry with sects or heads 0
too is the model's choice (log 28). -/
def Obligations.DiskStatusCalls : Prop :=
  ∀ s : State, s.params.int13ShortCircuit = true →
    let d := reg8 .dl s
    let drive := s.disk.at d
    reg8 .ah s ∉ [0x02#8, 0x03#8] →
    Completes (.int 0x13#8) s (fun t => DiskServed s t ∧ t.disk.drive = s.disk.drive ∧
      SameMemory t (mirrored d (reg8 .ah t) s) ∧
      (reg8 .ah s ∈ [0x00#8, 0x04#8, 0x05#8] → reg8 .ah t = 0 ∧ flag .cf t = false ∧ reg8 .al t = reg8 .al s) ∧
      (reg8 .ah s = 0x01#8 → reg8 .ah t = s.disk.lastAh.get 0#8 d.toNat ∧
        flag .cf t = s.disk.lastCf.get false d.toNat ∧ reg8 .al t = reg8 .al s) ∧
      (reg8 .ah s = 0x08#8 → drive.inserted = false → reg8 .ah t = 0xAA#8 ∧ flag .cf t = true) ∧
      (reg8 .ah s = 0x08#8 → drive.inserted = true →
        reg8 .ah t = 0 ∧ flag .cf t = false ∧ reg8 .al t = reg8 .al s ∧ reg8 .bh t = reg8 .bh s ∧
        (1 ≤ drive.cyls → (reg8 .ch t).toNat = (drive.cyls - 1) % 256) ∧
        reg8 .cl t = BitVec.ofNat 8 (drive.sects ||| (drive.cyls / 256 * 64)) ∧
        (1 ≤ drive.heads → (reg8 .dh t).toNat = (drive.heads - 1) % 256) ∧
        (0x80 ≤ d.toNat → (reg8 .dl t).toNat =
            ((List.range 256).filter fun i => 0x80 ≤ i && (s.disk.at (BitVec.ofNat 8 i)).inserted).length % 256 ∧
          reg8 .bl t = reg8 .bl s) ∧
        (d.toNat < 0x80 → reg8 .dl t = 2 ∧ reg8 .bl t = 4)) ∧
      (reg8 .ah s ∉ [0x00#8, 0x01#8, 0x04#8, 0x05#8, 0x08#8] → reg8 .ah t = reg8 .ah s ∧ flag .cf t = true) ∧
      (reg8 .ah s = 0x08#8 ∧ drive.inserted = true ∨
        (reg8 .al t = reg8 .al s ∧ ∀ r ∈ [Reg16.cx, .dx, .bx], reg16 r t = reg16 r s)))

/-- R606 to R611, R614, R615, R627, R628, R762: INT 13h AH = 02 and 03 served in the block, the last status of the drive
written and AH mirrored at 0x474 for a drive with bit 7 set. The checks of R608 in their order; then
m sectors move between the image from the CHS address's offset on and memory from ES:BX on, m being the count or
where the image ends (a raw device may fail before that, and the sector a failed host write leaves is free); AL is m,
and CF and AH tell whether m is the count. That the formulas hold for a geometry with sects or heads 0 too is the
model's choice (log 28). -/
def Obligations.DiskTransfers : Prop :=
  ∀ s : State, s.params.int13ShortCircuit = true → reg8 .ah s ∈ [0x02#8, 0x03#8] →
    let d := reg8 .dl s
    let drive := s.disk.at d
    let writes : Bool := reg8 .ah s == 0x03#8
    let count := (reg8 .al s).toNat
    let sect := (reg8 .cl s).toNat % 64
    let cyl := (reg8 .ch s).toNat + 256 * ((reg8 .cl s).toNat / 64)
    let off := ((cyl * drive.heads + (reg8 .dh s).toNat) * drive.sects + sect - 1) * 512
    let buf := lin (sreg .es s) (reg16 .bx s)
    let failed (t : State) (code : Byte) : Prop := reg8 .al t = 0 ∧ reg8 .ah t = code ∧ flag .cf t = true ∧
      t.disk.drive = s.disk.drive ∧ SameMemory t (mirrored d code s)
    Completes (.int 0x13#8) s (fun t => DiskServed s t ∧ (∀ r ∈ [Reg16.cx, .dx, .bx], reg16 r t = reg16 r s) ∧
      (drive.inserted = false → failed t s.params.diskErrNotInserted) ∧
      (drive.inserted = true → sect = 0 ∨ drive.size < off → failed t s.params.diskErrBadAddress) ∧
      (drive.inserted = true → sect ≠ 0 → off ≤ drive.size → ∃ m, m ≤ min count ((drive.size - off) / 512) ∧
        (drive.raw = false → m = min count ((drive.size - off) / 512)) ∧
        (reg8 .al t).toNat = m ∧ flag .cf t = decide (m < count) ∧
        reg8 .ah t = (if m = count then 0
          else if writes then s.params.diskErrWrite else s.params.diskErrRead) ∧
        (writes = false → t.disk.drive = s.disk.drive ∧
          SameMemory t (mirrored d (reg8 .ah t)
            (writeBytes ((List.range (512 * m)).map fun j => drive.backing.get 0#8 (off + j)) buf s))) ∧
        (writes = true → SameMemory t (mirrored d (reg8 .ah t) s) ∧
          (∀ n, n ≠ d → t.disk.at n = s.disk.at n) ∧
          { t.disk.at d with backing := drive.backing } = drive ∧
          ∀ o, (t.disk.at d).backing.get 0#8 o =
              (if off ≤ o ∧ o < off + 512 * m then peek8 (buf + BitVec.ofNat 20 (o - off)) s
               else drive.backing.get 0#8 o) ∨
            drive.raw = true ∧ m < min count ((drive.size - off) / 512) ∧ off + 512 * m ≤ o ∧
              o < off + 512 * (m + 1))))

/-- R650 to R654, R762: INT 10h served in the block, when AH is in the parameter's set. AH = 00 sets the mode state of
a listed mode and refuses one that the table does not list; without the noblank bit the mode's framebuffer bytes are
free; AH = 0F reads the mode back; any other AH does nothing. No register, flag or byte changes but these. -/
def Obligations.VideoServiceCalls : Prop :=
  ∀ s : State, s.params.int10ShortCircuit.contains (reg8 .ah s) = true →
    let m := (reg8 .al s).extractLsb' 0 7
    let noblank := (reg8 .al s).msb
    let old := s.video.mode
    let table : List (BitVec 7 × Nat × Nat × Option (Nat × Nat) × FrameBase) :=
      [(0x00, 40, 25, none, .b8000), (0x01, 40, 25, none, .b8000), (0x02, 80, 25, none, .b8000),
       (0x03, 80, 25, none, .b8000), (0x04, 40, 25, some (320, 200), .b8000), (0x05, 40, 25, some (320, 200), .b8000),
       (0x06, 80, 25, some (640, 200), .b8000), (0x07, 80, 25, none, .b8000), (0x0D, 40, 25, some (320, 200), .a0000),
       (0x0E, 80, 25, some (640, 200), .a0000), (0x0F, 80, 25, some (640, 350), .a0000),
       (0x10, 80, 25, some (640, 350), .a0000), (0x11, 80, 30, some (640, 480), .a0000),
       (0x12, 80, 30, some (640, 480), .a0000), (0x13, 40, 25, some (320, 200), .a0000)]
    (reg8 .ah s = 0x00#8 → ∀ x ∈ table, x.1 = m → Completes (.int 0x10#8) s (fun t =>
      let v := t.video.mode
      v.number = m ∧ v.cols = x.2.1 ∧ v.rows = x.2.2.1 ∧ v.base = x.2.2.2.2 ∧ v.text = x.2.2.2.1.isNone ∧
      (v.width, v.height) = x.2.2.2.1.getD (old.width, old.height) ∧
      v.noblank = noblank ∧ v.activePage = 0 ∧ (∀ page, v.cursor.get (0, 0) page = (0, 0)) ∧
      (noblank = true → SameMemory t s) ∧
      (noblank = false → ∀ a, peek8 a t ≠ peek8 a s →
        (x.2.2.2.2 = .b8000 ∧ 0xB8000 ≤ a.toNat ∧ a.toNat ≤ 0xBFFFF ∧ isReadonly a s = false) ∨
        (x.2.2.2.2 = .a0000 ∧ inAperture a = true)) ∧
      (x.2.2.2.2 = .b8000 → t.video.planes = s.video.planes) ∧ (x.2.2.2.2 = .a0000 → t.ram = s.ram) ∧
      { t.video with mode := old, planes := s.video.planes } = s.video ∧
      t.regs = s.regs ∧ t.sregs = s.sregs ∧ t.flags = s.flags ∧ t.ip = s.ip ∧ t.run = .running ∧
      KeepsDevices (s.setVideo { s.video with mode := t.video.mode }) t)) ∧
    (reg8 .ah s = 0x00#8 → (∀ x ∈ table, x.1 ≠ m) → exec (.int 0x10#8) s = .refused (.unlistedVideoMode m)) ∧
    (reg8 .ah s = 0x0F#8 → Completes (.int 0x10#8) s (fun t =>
      reg8 .al t = BitVec.ofBool old.noblank ++ old.number ∧ reg8 .ah t = BitVec.ofNat 8 old.cols ∧
      reg8 .bh t = old.activePage.setWidth 8 ∧ t.run = .running ∧
      Frame { bytes := [.al, .ah, .bh], run := true } s t)) ∧
    (reg8 .ah s ∉ [0x00#8, 0x0F#8] → exec (.int 0x10#8) s = .next (s.setRun .running))
end

