-- ==== Sys2Proof/Laws/Writes.lean ====
section
/-! SUPPORT. How the shared operations keep a frame: each lemma extends `Frame w s t` by one more operation on t
that `w` allows. -/

namespace Sys2Proof.Machine

theorem KeepsDevices.refl (s : State) : KeepsDevices s s := ⟨rfl, rfl, rfl, rfl, rfl, rfl, rfl, rfl, rfl, rfl, rfl, rfl, rfl, rfl⟩

theorem KeepsDevices.trans {s t u : State} (h : KeepsDevices s t) (h' : KeepsDevices t u) : KeepsDevices s u :=
  ⟨h'.pic.trans h.pic, h'.disk.trans h.disk, h'.video.trans h.video, h'.shadow.trans h.shadow,
    h'.readonly.trans h.readonly, h'.hostRunning.trans h.hostRunning, h'.hardReset.trans h.hardReset,
    h'.bootDrive.trans h.bootDrive, h'.batch.trans h.batch, h'.events.trans h.events, h'.params.trans h.params,
    h'.segOverride.trans h.segOverride, h'.rep.trans h.rep, h'.instrIP.trans h.instrIP⟩

namespace KeepsMemory

variable {m : List Linear} {s t u : State}

theorem refl (m : List Linear) (s : State) : KeepsMemory m s s :=
  ⟨fun _ _ => rfl, fun _ _ => rfl, fun _ => rfl, fun _ _ _ _ => rfl⟩

theorem trans (h : KeepsMemory m s t) (h' : KeepsMemory m t u) : KeepsMemory m s u where
  bytes a ha := (h'.bytes a ha).trans (h.bytes a ha)
  ram a ha := (h'.ram a ha).trans (h.ram a ha)
  planes ha := (h'.planes ha).trans (h.planes ha)
  planeBytes i a ha hm := (h'.planeBytes i a ha hm).trans (h.planeBytes i a ha hm)

theorem mono {m' : List Linear} (h : KeepsMemory m s t) (hm : m ⊆ m') : KeepsMemory m' s t where
  bytes a ha := h.bytes a fun hc => ha (hm hc)
  ram a ha := h.ram a (ha.imp_left fun hn hc => hn (hm hc))
  planes ha := h.planes fun a hc => ha a (hm hc)
  planeBytes i a ha hn := h.planeBytes i a ha fun hc => hn (hm hc)

/-- An update that leaves memory. -/
theorem congr (h : KeepsMemory m s t) (hb : ∀ a, peek8 a u = peek8 a t) (hr : u.ram = t.ram)
    (hp : u.video.planes = t.video.planes) : KeepsMemory m s u :=
  h.trans ⟨fun a _ => hb a, fun _ _ => by rw [hr], fun _ => hp, fun _ _ _ _ => by rw [hp]⟩

/-- A byte's write changes its RAM byte, or its offset in the planes. -/
theorem write8 (h : KeepsMemory m s t) {a : Linear} (ha : a ∈ m) (v : Byte) : KeepsMemory m s (write8 a v t) := by
  refine h.trans ⟨fun b hb => peek8_write8_other _ _ (by rintro rfl; exact hb ha), fun b hb => ?_, fun hm => ?_,
    fun i b hb hn => ?_⟩
  · unfold Machine.write8
    split
    · rfl
    · split
      · rfl
      · rename_i hap
        have hne : b ≠ a := by
          rintro rfl
          rcases hb with hb | hb
          · exact hb ha
          · exact hap hb
        exact (ramGet_ramSet ..).trans (if_neg hne)
  · unfold Machine.write8
    rw [hm a ha]
    split <;> rfl
  · unfold Machine.write8
    split
    · rfl
    · split
      · rename_i hap
        exact Video.planeGet_planarStore_other _ i v (apertureOffset_ne (by rintro rfl; exact hn ha) hap hb)
      · rfl

end KeepsMemory

namespace Frame

variable {w : Writes} {s t : State}

theorem refl (w : Writes) (s : State) : Frame w s s :=
  ⟨fun _ _ _ => rfl, fun _ _ _ => rfl, fun _ _ => rfl, fun _ _ => rfl, .refl _ s, fun _ => rfl, fun _ => rfl,
    fun _ => rfl, .refl s⟩

/-- A longer list of writes frames too. -/
theorem mono {w' : Writes} (h : Frame w s t) (hr : w.regs ⊆ w'.regs) (hb : w.bytes ⊆ w'.bytes)
    (hs : w.sregs ⊆ w'.sregs) (hf : w.flags ⊆ w'.flags) (hm : w.mem ⊆ w'.mem) (hl : w.reads ⊆ w'.reads)
    (hi : w.ip = true → w'.ip = true) (hn : w.run = true → w'.run = true) : Frame w' s t where
  regs r h1 h2 := h.regs r (fun hc => h1 (hr hc)) (fun b hc => h2 b (hb hc))
  halves b h1 h2 := h.halves b (fun hc => h1 (hr hc)) (fun hc => h2 (hb hc))
  sregs k h1 := h.sregs k (fun hc => h1 (hs hc))
  flags k h1 := h.flags k (fun hc => h1 (hf hc))
  memory := h.memory.mono hm
  latch h1 := h.latch fun a ha => h1 a (hl ha)
  ip h1 := h.ip (by cases hw : w.ip <;> simp_all)
  run h1 := h.run (by cases hw : w.run <;> simp_all)
  devices := h.devices

/-- An update of the general registers. -/
theorem setReg16 (h : Frame w s t) {k : Reg16} (hk : k ∈ w.regs) (v : Word) : Frame w s (setReg16 k v t) where
  regs r h1 h2 := by
    rw [reg16_setReg16, if_neg (by rintro rfl; exact h1 hk)]
    exact h.regs r h1 h2
  halves b h1 h2 := by
    rw [reg8_setReg16, if_neg (by rintro rfl; exact h1 hk)]
    exact h.halves b h1 h2
  sregs k h1 := by simpa using h.sregs k h1
  flags k h1 := by simpa using h.flags k h1
  memory := h.memory.congr (by simp) (by simp) (by simp)
  latch h1 := by simpa using h.latch h1
  ip h1 := by simpa using h.ip h1
  run h1 := by simpa using h.run h1
  devices := h.devices.trans ⟨rfl, rfl, rfl, rfl, rfl, rfl, rfl, rfl, rfl, rfl, rfl, rfl, rfl, rfl⟩

theorem setReg8 (h : Frame w s t) {k : Reg8} (hk : k ∈ w.bytes ∨ fullReg k ∈ w.regs) (v : Byte) :
    Frame w s (setReg8 k v t) where
  regs r h1 h2 := by
    rw [reg16_setReg8, if_neg]
    · exact h.regs r h1 h2
    · rintro rfl
      rcases hk with hk | hk
      · exact h2 k hk rfl
      · exact h1 hk
  halves b h1 h2 := by
    rw [reg8_setReg8, if_neg]
    · exact h.halves b h1 h2
    · rintro rfl
      rcases hk with hk | hk
      · exact h2 hk
      · exact h1 hk
  sregs k h1 := by simpa using h.sregs k h1
  flags k h1 := by simpa using h.flags k h1
  memory := h.memory.congr (by simp) (by simp) (by simp)
  latch h1 := by simpa using h.latch h1
  ip h1 := by simpa using h.ip h1
  run h1 := by simpa using h.run h1
  devices := h.devices.trans ⟨rfl, rfl, rfl, rfl, rfl, rfl, rfl, rfl, rfl, rfl, rfl, rfl, rfl, rfl⟩

theorem setSreg (h : Frame w s t) {k : Sreg} (hk : k ∈ w.sregs) (v : Word) : Frame w s (setSreg k v t) where
  regs r h1 h2 := by simpa using h.regs r h1 h2
  halves b h1 h2 := by simpa using h.halves b h1 h2
  sregs j h1 := by
    rw [sreg_setSreg, if_neg (by rintro rfl; exact h1 hk)]
    exact h.sregs j h1
  flags k h1 := by simpa using h.flags k h1
  memory := h.memory.congr (by simp) (by simp) (by simp)
  latch h1 := by simpa using h.latch h1
  ip h1 := by simpa using h.ip h1
  run h1 := by simpa using h.run h1
  devices := h.devices.trans ⟨rfl, rfl, rfl, rfl, rfl, rfl, rfl, rfl, rfl, rfl, rfl, rfl, rfl, rfl⟩

theorem setFlags (h : Frame w s t) (f : Flags) (hf : ∀ k, k ∉ w.flags → f.get k = flag k t) :
    Frame w s (t.setFlags f) where
  regs r h1 h2 := by simpa using h.regs r h1 h2
  halves b h1 h2 := by simpa using h.halves b h1 h2
  sregs j h1 := by simpa using h.sregs j h1
  flags k h1 := (hf k h1).trans (h.flags k h1)
  memory := h.memory.congr (by simp) (by simp) (by simp)
  latch h1 := by simpa using h.latch h1
  ip h1 := by simpa using h.ip h1
  run h1 := by simpa using h.run h1
  devices := h.devices.trans ⟨rfl, rfl, rfl, rfl, rfl, rfl, rfl, rfl, rfl, rfl, rfl, rfl, rfl, rfl⟩

theorem setFlag (h : Frame w s t) {k : Flag} (hk : k ∈ w.flags) (b : Bool) : Frame w s (setFlag k b t) :=
  h.setFlags _ fun j hj => by rw [Flags.get_set, if_neg (by rintro rfl; exact hj hk)]; rfl

theorem setDraws (h : Frame w s t) (n : Nat) : Frame w s (t.setDraws n) where
  regs r h1 h2 := by simpa using h.regs r h1 h2
  halves b h1 h2 := by simpa using h.halves b h1 h2
  sregs j h1 := by simpa using h.sregs j h1
  flags k h1 := by simpa using h.flags k h1
  memory := h.memory.congr (by simp) (by simp) (by simp)
  latch h1 := by simpa using h.latch h1
  ip h1 := by simpa using h.ip h1
  run h1 := by simpa using h.run h1
  devices := h.devices.trans ⟨rfl, rfl, rfl, rfl, rfl, rfl, rfl, rfl, rfl, rfl, rfl, rfl, rfl, rfl⟩

theorem undefine (h : Frame w s t) {ks : List Flag} (hk : ks ⊆ w.flags) : Frame w s (undefine ks t) := by
  induction ks generalizing t with
  | nil => exact h
  | cons k ks ih =>
    exact ih ((h.setFlag (hk List.mem_cons_self) _).setDraws _) (fun j hj => hk (List.mem_cons_of_mem _ hj))

/-- The six arithmetic flags. -/
theorem addFlags (h : Frame w s t) {n : Nat} (a b : BitVec n) (c : Bool) (hf : arithFlags ⊆ w.flags) :
    Frame w s (addFlags a b c t) :=
  h.setFlags _ fun k hk => by cases k <;> first | rfl | exact absurd (hf (by decide)) hk

theorem subFlags (h : Frame w s t) {n : Nat} (a b : BitVec n) (c : Bool) (hf : arithFlags ⊆ w.flags) :
    Frame w s (subFlags a b c t) :=
  h.setFlags _ fun k hk => by cases k <;> first | rfl | exact absurd (hf (by decide)) hk

theorem szpFlags (h : Frame w s t) {n : Nat} (r : BitVec n) (hf : [Flag.zf, .sf, .pf] ⊆ w.flags) :
    Frame w s (szpFlags r t) :=
  h.setFlags _ fun k hk => by cases k <;> first | rfl | exact absurd (hf (by decide)) hk

theorem logicFlags (h : Frame w s t) {n : Nat} (r : BitVec n) (hf : arithFlags ⊆ w.flags) :
    Frame w s (logicFlags r t) :=
  (h.setFlags _ fun k hk => by cases k <;> first | rfl | exact absurd (hf (by decide)) hk).undefine
    fun k hk => hf (by revert k; decide)

theorem setIp (h : Frame w s t) (hi : w.ip = true) (v : Word) : Frame w s (t.setIp v) where
  regs r h1 h2 := by simpa using h.regs r h1 h2
  halves b h1 h2 := by simpa using h.halves b h1 h2
  sregs j h1 := by simpa using h.sregs j h1
  flags k h1 := by simpa using h.flags k h1
  memory := h.memory.congr (by simp) (by simp) (by simp)
  latch h1 := by simpa using h.latch h1
  ip h1 := by rw [hi] at h1; cases h1
  run h1 := by simpa using h.run h1
  devices := h.devices.trans ⟨rfl, rfl, rfl, rfl, rfl, rfl, rfl, rfl, rfl, rfl, rfl, rfl, rfl, rfl⟩

theorem setRun (h : Frame w s t) (hi : w.run = true) (v : Run) : Frame w s (t.setRun v) where
  regs r h1 h2 := by simpa using h.regs r h1 h2
  halves b h1 h2 := by simpa using h.halves b h1 h2
  sregs j h1 := by simpa using h.sregs j h1
  flags k h1 := by simpa using h.flags k h1
  memory := h.memory.congr (by simp) (by simp) (by simp)
  latch h1 := by simpa using h.latch h1
  ip h1 := by simpa using h.ip h1
  run h1 := by rw [hi] at h1; cases h1
  devices := h.devices.trans ⟨rfl, rfl, rfl, rfl, rfl, rfl, rfl, rfl, rfl, rfl, rfl, rfl, rfl, rfl⟩

/-! ## Memory -/

/-- A read loads the latch at most (R110). -/
theorem touch8 (h : Frame w s t) {a : Linear} (ha : a ∈ w.reads) : Frame w s (touch8 a t) where
  regs r h1 h2 := by simpa using h.regs r h1 h2
  halves b h1 h2 := by simpa using h.halves b h1 h2
  sregs j h1 := by simpa using h.sregs j h1
  flags k h1 := by simpa using h.flags k h1
  memory := h.memory.congr (by simp) (by simp) (by simp)
  latch h1 := by
    rw [Machine.touch8, if_neg (by simp [h1 a ha])]
    exact h.latch h1
  ip h1 := by simpa using h.ip h1
  run h1 := by simpa using h.run h1
  devices := h.devices.trans ⟨by simp, by simp, by simp, by simp, by simp, by simp, by simp, by simp, by simp,
    by simp, by simp, by simp, by simp, by simp⟩

theorem touch16 (h : Frame w s t) {a : Linear} (ha : wordAt a ⊆ w.reads) : Frame w s (touch16 a t) :=
  (h.touch8 (ha (by simp [wordAt]))).touch8 (ha (by simp [wordAt]))

/-- A write changes its byte at most (R102), and never the latch (R735). -/
theorem write8 (h : Frame w s t) {a : Linear} (ha : a ∈ w.mem) (v : Byte) : Frame w s (write8 a v t) where
  regs r h1 h2 := by simpa using h.regs r h1 h2
  halves b h1 h2 := by simpa using h.halves b h1 h2
  sregs j h1 := by simpa using h.sregs j h1
  flags k h1 := by simpa using h.flags k h1
  memory := h.memory.write8 ha v
  latch h1 := by
    refine Eq.trans ?_ (h.latch h1)
    unfold Machine.write8
    split <;> [rfl; (split <;> rfl)]
  ip h1 := by simpa using h.ip h1
  run h1 := by simpa using h.run h1
  devices := h.devices.trans ⟨by simp, by simp, by simp, by simp, by simp, by simp, by simp, by simp, by simp,
    by simp, by simp, by simp, by simp, by simp⟩

theorem write16 (h : Frame w s t) {a : Linear} (ha : wordAt a ⊆ w.mem) (v : Word) : Frame w s (write16 a v t) :=
  (h.write8 (ha (by simp [wordAt])) _).write8 (ha (by simp [wordAt])) _

/-- A push: SP and the word below it (R230). -/
theorem push16 (h : Frame w s t) (hsp : Reg16.sp ∈ w.regs)
    (ha : wordAt (lin (sreg .ss t) (reg16 .sp t - 2)) ⊆ w.mem) (v : Word) : Frame w s (push16 v t) := by
  refine (h.setReg16 hsp _).write16 (a := stackTop _) ?_ v
  simpa [stackTop] using ha

/-- A pop: SP and the word it points at (R230). -/
theorem pop16 (h : Frame w s t) (hsp : Reg16.sp ∈ w.regs) (ha : wordAt (stackTop t) ⊆ w.reads) :
    Frame w s (pop16 t).2 := by
  rw [pop16_eq]
  exact (h.touch16 ha).setReg16 hsp _

end Frame

/-! ## What memory depends on -/

/-- The parts of a state that memory accesses look at. -/
structure MemEq (s t : State) : Prop where
  ram : t.ram = s.ram
  video : t.video = s.video
  readonly : t.readonly = s.readonly

namespace MemEq
variable {s t u : State}

theorem refl (s : State) : MemEq s s := ⟨rfl, rfl, rfl⟩
theorem trans (h : MemEq s t) (h' : MemEq t u) : MemEq s u :=
  ⟨h'.ram.trans h.ram, h'.video.trans h.video, h'.readonly.trans h.readonly⟩

theorem same (h : MemEq s t) : SameMemory t s :=
  ⟨fun a => peek8_congr a h.ram h.video, fun _ => by rw [h.ram], by rw [h.video]⟩

/-- The same write on both. -/
theorem write8 (h : MemEq s t) (a : Linear) (v : Byte) : MemEq (write8 a v s) (write8 a v t) := by
  unfold Machine.write8
  rw [isReadonly_congr (s := s) a h.readonly]
  split
  · exact h
  · split
    · exact ⟨h.ram, by simp [h.video], h.readonly⟩
    · exact ⟨by simp [h.ram], h.video, h.readonly⟩

theorem write16 (h : MemEq s t) (a : Linear) (v : Word) : MemEq (write16 a v s) (write16 a v t) :=
  (h.write8 _ _).write8 _ _

theorem touch8 (h : MemEq s t) (a : Linear) : MemEq (touch8 a s) (touch8 a t) := by
  unfold Machine.touch8
  split
  · exact ⟨h.ram, by simp [h.video], h.readonly⟩
  · exact h

theorem touch16 (h : MemEq s t) (a : Linear) : MemEq (touch16 a s) (touch16 a t) := (h.touch8 _).touch8 _

/-! The updates that leave what memory depends on. -/

theorem setReg16 (h : MemEq s t) (k : Reg16) (v : Word) : MemEq s (setReg16 k v t) := ⟨h.ram, h.video, h.readonly⟩
theorem setReg8 (h : MemEq s t) (k : Reg8) (v : Byte) : MemEq s (setReg8 k v t) := ⟨h.ram, h.video, h.readonly⟩
theorem setSreg (h : MemEq s t) (k : Sreg) (v : Word) : MemEq s (setSreg k v t) := ⟨h.ram, h.video, h.readonly⟩
theorem setFlag (h : MemEq s t) (k : Flag) (b : Bool) : MemEq s (setFlag k b t) := ⟨h.ram, h.video, h.readonly⟩
theorem setFlags (h : MemEq s t) (f : Flags) : MemEq s (t.setFlags f) := ⟨h.ram, h.video, h.readonly⟩
theorem setIp (h : MemEq s t) (v : Word) : MemEq s (t.setIp v) := ⟨h.ram, h.video, h.readonly⟩
theorem setRun (h : MemEq s t) (v : Run) : MemEq s (t.setRun v) := ⟨h.ram, h.video, h.readonly⟩

theorem undefine (h : MemEq s t) (ks : List Flag) : MemEq s (undefine ks t) := by
  induction ks generalizing t with
  | nil => exact h
  | cons k ks ih => exact ih (t := drawFlag k t) ⟨h.ram, h.video, h.readonly⟩

theorem logicFlags (h : MemEq s t) {n : Nat} (r : BitVec n) : MemEq s (logicFlags r t) :=
  undefine (t := t.setFlags { t.flags.szp r with CF := false, OF := false }) ⟨h.ram, h.video, h.readonly⟩ _

/-- A push on equal memories with equal stacks. -/
theorem push16 (h : MemEq s t) (v : Word) (hr : t.regs = s.regs) (hs : t.sregs = s.sregs) :
    MemEq (push16 v s) (push16 v t) := by
  have ha : stackTop (Machine.setReg16 .sp (reg16 .sp t - 2) t) = stackTop (Machine.setReg16 .sp (reg16 .sp s - 2) s) := by
    simp [stackTop, reg16_congr .sp hr, sreg_congr .ss hs]
  unfold Machine.push16
  simp only [ha]
  exact write16 (s := Machine.setReg16 .sp (reg16 .sp s - 2) s) (t := Machine.setReg16 .sp (reg16 .sp t - 2) t)
    ⟨h.ram, h.video, h.readonly⟩ _ _

end MemEq

theorem SameMemory.refl (s : State) : SameMemory s s := ⟨fun _ => rfl, fun _ => rfl, rfl⟩
theorem SameMemory.symm {s t : State} (h : SameMemory s t) : SameMemory t s :=
  ⟨fun a => (h.bytes a).symm, fun a => (h.ram a).symm, h.planes.symm⟩
theorem SameMemory.trans {s t u : State} (h : SameMemory s t) (h' : SameMemory t u) : SameMemory s u :=
  ⟨fun a => (h.bytes a).trans (h'.bytes a), fun a => (h.ram a).trans (h'.ram a), h.planes.trans h'.planes⟩
theorem SameMemory.touch8 (s : State) (a : Linear) : SameMemory (Machine.touch8 a s) s :=
  ⟨fun b => peek8_touch8 s a b, fun _ => by rw [touch8_ram], touch8_planes a s⟩
theorem SameMemory.touch16 (s : State) (a : Linear) : SameMemory (Machine.touch16 a s) s :=
  (SameMemory.touch8 _ _).trans (SameMemory.touch8 _ _)
theorem SameMemory.peek16 {s t : State} (h : SameMemory s t) (a : Linear) : Machine.peek16 a s = Machine.peek16 a t := by
  unfold Machine.peek16
  rw [h.bytes a, h.bytes (a + 1)]

/-! ## Reading and writing an rm operand -/

theorem readRM8_eq (rm : RM8) (s : State) : readRM8 rm s = (rm8Value rm s, afterRead8 rm s) := by cases rm <;> rfl
theorem readRM16_eq (rm : RM16) (s : State) : readRM16 rm s = (rm16Value rm s, afterRead16 rm s) := by
  cases rm with
  | reg r => rfl
  | mem m => simp [readRM16, readLoc16, locate, read16_eq, rm16Value, afterRead16]
theorem readLoc8_locate (rm : RM8) (s : State) : readLoc8 (locate rm s) s = (rm8Value rm s, afterRead8 rm s) :=
  readRM8_eq rm s
theorem readLoc16_locate (rm : RM16) (s : State) : readLoc16 (locate rm s) s = (rm16Value rm s, afterRead16 rm s) :=
  readRM16_eq rm s

section
variable (rm8 : RM8) (rm16 : RM16) (s : State)

@[simp] theorem reg16_afterRead8 (k : Reg16) : reg16 k (afterRead8 rm8 s) = reg16 k s := by cases rm8 <;> simp [afterRead8]
@[simp] theorem reg8_afterRead8 (k : Reg8) : reg8 k (afterRead8 rm8 s) = reg8 k s := by cases rm8 <;> simp [afterRead8]
@[simp] theorem sreg_afterRead8 (k : Sreg) : sreg k (afterRead8 rm8 s) = sreg k s := by cases rm8 <;> simp [afterRead8]
@[simp] theorem afterRead8_flags : (afterRead8 rm8 s).flags = s.flags := by cases rm8 <;> simp [afterRead8]
@[simp] theorem flag_afterRead8 (k : Flag) : flag k (afterRead8 rm8 s) = flag k s := flag_congr k (by simp)
@[simp] theorem afterRead8_params : (afterRead8 rm8 s).params = s.params := by cases rm8 <;> simp [afterRead8]
@[simp] theorem afterRead8_ip : (afterRead8 rm8 s).ip = s.ip := by cases rm8 <;> simp [afterRead8]
@[simp] theorem peek8_afterRead8 (a : Linear) : peek8 a (afterRead8 rm8 s) = peek8 a s := by cases rm8 <;> simp [afterRead8]
@[simp] theorem reg16_afterRead16 (k : Reg16) : reg16 k (afterRead16 rm16 s) = reg16 k s := by cases rm16 <;> simp [afterRead16]
@[simp] theorem reg8_afterRead16 (k : Reg8) : reg8 k (afterRead16 rm16 s) = reg8 k s := by cases rm16 <;> simp [afterRead16]
@[simp] theorem sreg_afterRead16 (k : Sreg) : sreg k (afterRead16 rm16 s) = sreg k s := by cases rm16 <;> simp [afterRead16]
@[simp] theorem afterRead16_flags : (afterRead16 rm16 s).flags = s.flags := by cases rm16 <;> simp [afterRead16]
@[simp] theorem flag_afterRead16 (k : Flag) : flag k (afterRead16 rm16 s) = flag k s := flag_congr k (by simp)
@[simp] theorem afterRead16_params : (afterRead16 rm16 s).params = s.params := by cases rm16 <;> simp [afterRead16]
@[simp] theorem afterRead16_ip : (afterRead16 rm16 s).ip = s.ip := by cases rm16 <;> simp [afterRead16]
@[simp] theorem peek8_afterRead16 (a : Linear) : peek8 a (afterRead16 rm16 s) = peek8 a s := by cases rm16 <;> simp [afterRead16]
end

namespace Frame
variable {w : Writes} {s : State}

theorem afterRead8 (rm : RM8) (h : rmReads8 rm s ⊆ w.reads) : Frame w s (afterRead8 rm s) := by
  cases rm with
  | reg r => exact .refl _ _
  | mem m => exact (Frame.refl w s).touch8 (h (by simp [rmReads8]))

theorem afterRead16 (rm : RM16) (h : rmReads16 rm s ⊆ w.reads) : Frame w s (afterRead16 rm s) := by
  cases rm with
  | reg r => exact .refl _ _
  | mem m => exact (Frame.refl w s).touch16 h

/-- A write at an rm operand that was located in the instruction's first state. -/
theorem writeLoc8 {t : State} (h : Frame w s t) (rm : RM8) (v : Byte)
    (hw : match rm with | .reg r => r ∈ w.bytes ∨ fullReg r ∈ w.regs | .mem m => ea m s ∈ w.mem) :
    Frame w s (Machine.writeLoc8 (locate rm s) v t) := by
  cases rm with
  | reg r => exact h.setReg8 hw v
  | mem m => exact h.write8 hw v

theorem writeLoc16 {t : State} (h : Frame w s t) (rm : RM16) (v : Word)
    (hw : match rm with | .reg r => r ∈ w.regs | .mem m => wordAt (ea m s) ⊆ w.mem) :
    Frame w s (Machine.writeLoc16 (locate rm s) v t) := by
  cases rm with
  | reg r => exact h.setReg16 hw v
  | mem m => exact h.write16 hw v

theorem dest8 {t : State} {rm : RM8} {fs : List Flag} {rs : List Linear} (h : Frame (Machine.dest8 rm s fs rs) s t) (v : Byte) :
    Frame (Machine.dest8 rm s fs rs) s (Machine.writeLoc8 (locate rm s) v t) := by
  apply h.writeLoc8
  cases rm with
  | reg r => exact .inl List.mem_cons_self
  | mem m => exact List.mem_cons_self

theorem dest16 {t : State} {rm : RM16} {fs : List Flag} {rs : List Linear} (h : Frame (Machine.dest16 rm s fs rs) s t) (v : Word) :
    Frame (Machine.dest16 rm s fs rs) s (Machine.writeLoc16 (locate rm s) v t) := by
  apply h.writeLoc16
  cases rm with
  | reg r => exact List.mem_cons_self
  | mem m => exact List.Subset.refl _

end Frame

@[simp] theorem dest8_flags (rm : RM8) (s : State) (fs : List Flag) (rs : List Linear) : (dest8 rm s fs rs).flags = fs := by
  cases rm <;> rfl
@[simp] theorem dest8_reads (rm : RM8) (s : State) (fs : List Flag) (rs : List Linear) : (dest8 rm s fs rs).reads = rs := by
  cases rm <;> rfl
@[simp] theorem dest16_flags (rm : RM16) (s : State) (fs : List Flag) (rs : List Linear) : (dest16 rm s fs rs).flags = fs := by
  cases rm <;> rfl
@[simp] theorem dest16_reads (rm : RM16) (s : State) (fs : List Flag) (rs : List Linear) : (dest16 rm s fs rs).reads = rs := by
  cases rm <;> rfl

/-- The result of a write at a located operand, the store's state being one with memory as in u. -/
theorem resultAt8_writeLoc8 (rm : RM8) (v : Byte) {s u t : State} (h : MemEq u t) :
    ResultAt8 rm v s u (writeLoc8 (locate rm s) v t) := by
  cases rm with
  | reg r => simp [ResultAt8, writeLoc8, locate]
  | mem m => exact (h.write8 _ _).same

theorem resultAt16_writeLoc16 (rm : RM16) (v : Word) {s u t : State} (h : MemEq u t) :
    ResultAt16 rm v s u (writeLoc16 (locate rm s) v t) := by
  cases rm with
  | reg r => simp [ResultAt16, writeLoc16, locate]
  | mem m => exact (h.write16 _ _).same

@[simp] theorem writeLoc8_flags (l : Loc Reg8) (v : Byte) (s : State) : (writeLoc8 l v s).flags = s.flags := by
  cases l <;> simp [writeLoc8]
@[simp] theorem writeLoc16_flags (l : Loc Reg16) (v : Word) (s : State) : (writeLoc16 l v s).flags = s.flags := by
  cases l <;> simp [writeLoc16]

/-! ## The shapes of instructions -/

/-- What an operation on flags does: it gives the result and the flags, whatever state with the same flags it
runs in, and changes flags of the list and the draw counter alone. -/
structure FlagOp {n : Nat} (fs : List Flag) (s : State) (f : State → BitVec n × State) (r : BitVec n)
    (p : State → Prop) : Prop where
  result : ∀ u, u.flags = s.flags → (f u).1 = r
  flagsAre : ∀ u, u.flags = s.flags → p (f u).2
  memEq : ∀ u, MemEq u (f u).2
  frame : ∀ (w : Writes) (t u : State), fs ⊆ w.flags → Frame w t u → Frame w t (f u).2
  congr : ∀ t u : State, u.flags = t.flags → p t → p u

theorem aluRead8_eq (f : AluForm8) (s : State) :
    aluRead8 f s = (locate (aluDst8 f) s, rm8Value (aluDst8 f) s, aluSrc8 f s, afterRead8 (aluOperand8 f) s) := by
  cases f with
  | alIb => rfl
  | gbEb g rm => simp [aluRead8, readRM8_eq, aluDst8, aluSrc8, aluOperand8, locate, rm8Value]
  | ebGb rm g => simp [aluRead8, readLoc8_locate, aluDst8, aluSrc8, aluOperand8]
  | ebIb rm i => simp [aluRead8, readLoc8_locate, aluDst8, aluSrc8, aluOperand8]
  | ebIbDup rm i => simp [aluRead8, readLoc8_locate, aluDst8, aluSrc8, aluOperand8]

theorem aluRead16_eq (f : AluForm16) (s : State) :
    aluRead16 f s = (locate (aluDst16 f) s, rm16Value (aluDst16 f) s, aluSrc16 f s, afterRead16 (aluOperand16 f) s) := by
  cases f with
  | axIw => rfl
  | gwEw g rm => simp [aluRead16, readRM16_eq, aluDst16, aluSrc16, aluOperand16, locate, rm16Value]
  | ewGw rm g => simp [aluRead16, readLoc16_locate, aluDst16, aluSrc16, aluOperand16]
  | ewIw rm i => simp [aluRead16, readLoc16_locate, aluDst16, aluSrc16, aluOperand16]
  | ewIbs rm i => simp [aluRead16, readLoc16_locate, aluDst16, aluSrc16, aluOperand16]

/-- Everything `aluStore` does. -/
theorem aluStore_result {op : BinOp} {r : {w : Nat} → BitVec w → BitVec w → BitVec w}
    {flagsAre : {w : Nat} → BitVec w → BitVec w → State → Prop} (f : AluForm) (s : State)
    (h : ∀ w (a b : BitVec w), FlagOp arithFlags s (op w a b) (r a b) (flagsAre a b)) :
    AluResult f r flagsAre s (aluStore op f s) := by
  cases f with
  | byte f =>
    simp only [AluResult, aluStore, aluRead8_eq]
    have hop := h 8 (rm8Value (aluDst8 f) s) (aluSrc8 f s)
    have hfl : (afterRead8 (aluOperand8 f) s).flags = s.flags := by simp
    refine ⟨?_, ?_, ?_⟩
    · rw [hop.result _ hfl]
      exact resultAt8_writeLoc8 _ _ (hop.memEq _)
    · exact hop.congr _ _ (by simp) (hop.flagsAre _ hfl)
    · exact (hop.frame _ _ _ (by simp) (Frame.afterRead8 _ (by simp))).dest8 _
  | word f =>
    simp only [AluResult, aluStore, aluRead16_eq]
    have hop := h 16 (rm16Value (aluDst16 f) s) (aluSrc16 f s)
    have hfl : (afterRead16 (aluOperand16 f) s).flags = s.flags := by simp
    refine ⟨?_, ?_, ?_⟩
    · rw [hop.result _ hfl]
      exact resultAt16_writeLoc16 _ _ (hop.memEq _)
    · exact hop.congr _ _ (by simp) (hop.flagsAre _ hfl)
    · exact (hop.frame _ _ _ (by simp) (Frame.afterRead16 _ (by simp))).dest16 _

/-- Everything `aluTest` does. -/
theorem aluTest_result {op : BinOp} {r : {w : Nat} → BitVec w → BitVec w → BitVec w}
    {flagsAre : {w : Nat} → BitVec w → BitVec w → State → Prop} (f : AluForm) (s : State)
    (h : ∀ w (a b : BitVec w), FlagOp arithFlags s (op w a b) (r a b) (flagsAre a b)) :
    AluTested f flagsAre s (aluTest op f s) := by
  cases f with
  | byte f =>
    simp only [AluTested, aluTest, aluRead8_eq]
    have hop := h 8 (rm8Value (aluDst8 f) s) (aluSrc8 f s)
    exact ⟨hop.flagsAre _ (by simp),
      hop.frame _ _ _ (List.Subset.refl _) (Frame.afterRead8 _ (List.Subset.refl _))⟩
  | word f =>
    simp only [AluTested, aluTest, aluRead16_eq]
    have hop := h 16 (rm16Value (aluDst16 f) s) (aluSrc16 f s)
    exact ⟨hop.flagsAre _ (by simp),
      hop.frame _ _ _ (List.Subset.refl _) (Frame.afterRead16 _ (List.Subset.refl _))⟩

/-- Everything `unaryStore` does. -/
theorem unaryStore_result {op : UnOp} {r : {w : Nat} → BitVec w → BitVec w}
    {flagsAre : {w : Nat} → BitVec w → State → Prop} {fs : List Flag} (e : EOp) (s : State)
    (h : ∀ w (a : BitVec w), FlagOp fs s (op w a) (r a) (flagsAre a)) :
    UnaryResult e r flagsAre fs s (unaryStore op e s) := by
  cases e with
  | b rm =>
    simp only [UnaryResult, unaryStore, modifyRM8, readLoc8_locate]
    have hop := h 8 (rm8Value rm s)
    have hfl : (afterRead8 rm s).flags = s.flags := by simp
    refine ⟨?_, ?_, ?_⟩
    · rw [hop.result _ hfl]
      exact resultAt8_writeLoc8 _ _ (hop.memEq _)
    · exact hop.congr _ _ (by simp) (hop.flagsAre _ hfl)
    · exact (hop.frame _ _ _ (by simp) (Frame.afterRead8 _ (by simp))).dest8 _
  | w rm =>
    simp only [UnaryResult, unaryStore, modifyRM16, readLoc16_locate]
    have hop := h 16 (rm16Value rm s)
    have hfl : (afterRead16 rm s).flags = s.flags := by simp
    refine ⟨?_, ?_, ?_⟩
    · rw [hop.result _ hfl]
      exact resultAt16_writeLoc16 _ _ (hop.memEq _)
    · exact hop.congr _ _ (by simp) (hop.flagsAre _ hfl)
    · exact (hop.frame _ _ _ (by simp) (Frame.afterRead16 _ (by simp))).dest16 _

end Sys2Proof.Machine
end

