-- ==== Sys2Proof/Laws/Alu.lean ====
section
/-! SUPPORT. What each arithmetic and logic operation does to the flags, as one `FlagOp` each: `aluStore_result`,
`aluTest_result` and `unaryStore_result` turn it into everything the instruction does. -/

namespace Sys2Proof.Machine

theorem SzpAre.congr {w : Nat} {r : BitVec w} {s t : State} (h : t.flags = s.flags) (hs : SzpAre r s) : SzpAre r t :=
  ⟨(flag_congr _ h).trans hs.zf, (flag_congr _ h).trans hs.sf, (flag_congr _ h).trans hs.pf⟩

theorem AddFlagsAre.congr {w : Nat} {a b : BitVec w} {c : Bool} {s t : State} (h : t.flags = s.flags)
    (hs : AddFlagsAre a b c s) : AddFlagsAre a b c t :=
  ⟨(flag_congr _ h).trans hs.cf, (flag_congr _ h).trans hs.of, (flag_congr _ h).trans hs.af, hs.szp.congr h⟩

theorem SubFlagsAre.congr {w : Nat} {a b : BitVec w} {c : Bool} {s t : State} (h : t.flags = s.flags)
    (hs : SubFlagsAre a b c s) : SubFlagsAre a b c t :=
  ⟨(flag_congr _ h).trans hs.cf, (flag_congr _ h).trans hs.of, (flag_congr _ h).trans hs.af, hs.szp.congr h⟩

theorem LogicFlagsAre.congr {w : Nat} {r : BitVec w} {s t : State} (h : t.flags = s.flags)
    (hs : LogicFlagsAre r s) : LogicFlagsAre r t :=
  ⟨(flag_congr _ h).trans hs.cf, (flag_congr _ h).trans hs.of, hs.szp.congr h⟩

/-- The flags `addFlags` leaves. -/
theorem addFlags_are {w : Nat} (a b : BitVec w) (c : Bool) (s : State) : AddFlagsAre a b c (addFlags a b c s) :=
  ⟨rfl, rfl, rfl, rfl, rfl, rfl⟩

/-- The flags `subFlags` leaves. -/
theorem subFlags_are {w : Nat} (a b : BitVec w) (c : Bool) (s : State) : SubFlagsAre a b c (subFlags a b c s) :=
  ⟨rfl, rfl, rfl, rfl, rfl, rfl⟩

/-- The flags `logicFlags` leaves. -/
theorem logicFlags_are {w : Nat} (r : BitVec w) (s : State) : LogicFlagsAre r (logicFlags r s) :=
  ⟨flag_undefine_other _ (by decide), flag_undefine_other _ (by decide), flag_undefine_other _ (by decide),
    flag_undefine_other _ (by decide), flag_undefine_other _ (by decide)⟩

theorem MemEq.addFlags {s t : State} {w : Nat} (h : MemEq s t) (a b : BitVec w) (c : Bool) : MemEq s (addFlags a b c t) :=
  h.setFlags _

theorem MemEq.subFlags {s t : State} {w : Nat} (h : MemEq s t) (a b : BitVec w) (c : Bool) : MemEq s (subFlags a b c t) :=
  h.setFlags _

/-- ADD and ADC, c being the carry at the instruction's start. -/
theorem addOp_flagOp (c : State → Bool) (hc : ∀ s t : State, t.flags = s.flags → c t = c s) (s : State) (w : Nat)
    (a b : BitVec w) : FlagOp arithFlags s (addOp c w a b) (addResult a b (c s)) (AddFlagsAre a b (c s)) where
  result u hu := by simp [addOp, hc s u hu]
  flagsAre u hu := by simpa [addOp, hc s u hu] using addFlags_are a b (c s) u
  memEq u := (MemEq.refl u).addFlags _ _ _
  frame _ _ _ hf h := h.addFlags _ _ _ hf
  congr _ _ h hp := hp.congr h

/-- SUB, SBB and CMP. -/
theorem subOp_flagOp (c : State → Bool) (hc : ∀ s t : State, t.flags = s.flags → c t = c s) (s : State) (w : Nat)
    (a b : BitVec w) : FlagOp arithFlags s (subOp c w a b) (subResult a b (c s)) (SubFlagsAre a b (c s)) where
  result u hu := by simp [subOp, hc s u hu]
  flagsAre u hu := by simpa [subOp, hc s u hu] using subFlags_are a b (c s) u
  memEq u := (MemEq.refl u).subFlags _ _ _
  frame _ _ _ hf h := h.subFlags _ _ _ hf
  congr _ _ h hp := hp.congr h

/-- AND, OR and XOR. -/
theorem logicOp_flagOp (op : (w : Nat) → BitVec w → BitVec w → BitVec w) (s : State) (w : Nat) (a b : BitVec w) :
    FlagOp arithFlags s (logicOp op w a b) (op w a b) (LogicFlagsAre (op w a b)) where
  result _ _ := rfl
  flagsAre u _ := logicFlags_are _ u
  memEq u := (MemEq.refl u).logicFlags _
  frame _ _ _ hf h := h.logicFlags _ hf
  congr _ _ h hp := hp.congr h

/-- NEG. -/
theorem negOp_flagOp (s : State) (w : Nat) (a : BitVec w) :
    FlagOp arithFlags s (negOp w a) (subResult 0 a false) (SubFlagsAre 0 a false) where
  result _ _ := rfl
  flagsAre u _ := subFlags_are _ _ _ u
  memEq u := (MemEq.refl u).subFlags _ _ _
  frame _ _ _ hf h := h.subFlags _ _ _ hf
  congr _ _ h hp := hp.congr h

end Sys2Proof.Machine
end

