-- ==== Sys2Proof/Laws/Stable.lean ====
section
/-! SUPPORT. One induction for every whole-machine rule: a property that the machine's primitive updates keep is
kept by every instruction that may use them. -/

namespace Sys2Proof.Machine

/-- `P` is kept by each primitive update that instruction `i` may use. -/
structure Stable (i : Instr) (P : State → Prop) : Prop where
  regs : ∀ s r, P s → P (s.setRegs r)
  sreg : ∀ s k v, (k = .cs → mayWriteCS i = true) → P s → P (setSreg k v s)
  ip : ∀ s v, P s → P (s.setIp v)
  flags : ∀ s f, (mayWriteTF i = true ∨ f.TF = s.flags.TF) → (mayWriteIF i = true ∨ f.IF = s.flags.IF) →
    (mayWriteDF i = true ∨ f.DF = s.flags.DF) → P s → P (s.setFlags f)
  run : ∀ s r, mayWriteRun i = true → P s → P (s.setRun r)
  segOverride : ∀ s o, i.isPrefix = true → P s → P (s.setSegOverride o)
  rep : ∀ s o, i.isPrefix = true → P s → P (s.setRep o)
  draws : ∀ s n, P s → P (s.setDraws n)
  touch8 : ∀ s a, P s → P (touch8 a s)
  write8 : ∀ s a v, P s → P (write8 a v s)
  portRead8 : ∀ s p, P s → P (portRead8 p s).2
  portWrite8 : ∀ s p v, P s → P (portWrite8 p v s)
  storeSector : ∀ s d o bytes, mayInterrupt i = true → o + bytes.length ≤ (s.disk.at d).size →
    P s → P (storeSector d o bytes s)
  status : ∀ s (d ah : Byte) cf, mayInterrupt i = true → P s → P (s.setDisk { s.disk with
    lastAh := s.disk.lastAh.set 0#8 d.toNat ah, lastCf := s.disk.lastCf.set false d.toNat cf })
  setMode : ∀ s m noblank row, mayInterrupt i = true → modeRow m = some row → P s → P (setMode m noblank row s)

namespace Stable

variable {i : Instr} {P : State → Prop} (h : Stable i P)
include h

/-! ## The shared operations -/

theorem onSetReg16 {s : State} (k : Reg16) (v : Word) (hs : P s) : P (setReg16 k v s) := h.regs _ _ hs
theorem onSetReg8 {s : State} (k : Reg8) (v : Byte) (hs : P s) : P (setReg8 k v s) := h.regs _ _ hs
theorem onJumpRel {s : State} (rel : Byte) (hs : P s) : P (jumpRel rel s) := h.ip _ _ hs

/-- A change of flags that leaves TF, IF and DF. -/
theorem arith {s : State} (f : Flags) (hs : P s) (ht : f.TF = s.flags.TF := by rfl) (hi : f.IF = s.flags.IF := by rfl)
    (hd : f.DF = s.flags.DF := by rfl) : P (s.setFlags f) := h.flags _ _ (.inr ht) (.inr hi) (.inr hd) hs

theorem onAddFlags {s : State} {w : Nat} (a b : BitVec w) (c : Bool) (hs : P s) : P (addFlags a b c s) := h.arith _ hs
theorem onSubFlags {s : State} {w : Nat} (a b : BitVec w) (c : Bool) (hs : P s) : P (subFlags a b c s) := h.arith _ hs
theorem onSzpFlags {s : State} {w : Nat} (r : BitVec w) (hs : P s) : P (szpFlags r s) := h.arith _ hs

/-- An arithmetic flag. -/
theorem onSetFlag {s : State} (k : Flag) (b : Bool) (hk : k ∈ arithFlags) (hs : P s) : P (setFlag k b s) := by
  cases k <;> first | exact h.arith _ hs | exact absurd hk (by decide)

theorem onUndefine {s : State} (ks : List Flag) (hk : ∀ k ∈ ks, k ∈ arithFlags) (hs : P s) : P (undefine ks s) := by
  induction ks generalizing s with
  | nil => exact hs
  | cons k ks ih =>
    exact ih (fun j hj => hk j (List.mem_cons_of_mem _ hj))
      (h.draws _ _ (h.onSetFlag k _ (hk k List.mem_cons_self) hs))

theorem onLogicFlags {s : State} {w : Nat} (r : BitVec w) (hs : P s) : P (logicFlags r s) :=
  h.onUndefine _ (by decide) (h.arith _ hs)

theorem onTouch16 {s : State} (a : Linear) (hs : P s) : P (touch16 a s) := h.touch8 _ _ (h.touch8 _ _ hs)
theorem onWrite16 {s : State} (a : Linear) (v : Word) (hs : P s) : P (write16 a v s) :=
  h.write8 _ _ _ (h.write8 _ _ _ hs)
theorem onPush16 {s : State} (v : Word) (hs : P s) : P (push16 v s) := h.onWrite16 _ _ (h.onSetReg16 _ _ hs)
theorem onPop16 {s : State} (hs : P s) : P (pop16 s).2 := by
  rw [pop16_eq]; exact h.onSetReg16 _ _ (h.onTouch16 _ hs)

theorem onRead16 {s : State} (a : Linear) (hs : P s) : P (read16 a s).2 := by
  rw [read16_eq]; exact h.onTouch16 _ hs

theorem onReadLoc8 {s : State} (l : Loc Reg8) (hs : P s) : P (readLoc8 l s).2 := by
  cases l with
  | reg r => exact hs
  | mem a => exact h.touch8 _ _ hs

theorem onReadLoc16 {s : State} (l : Loc Reg16) (hs : P s) : P (readLoc16 l s).2 := by
  cases l with
  | reg r => exact hs
  | mem a => exact h.onRead16 a hs

theorem onWriteLoc8 {s : State} (l : Loc Reg8) (v : Byte) (hs : P s) : P (writeLoc8 l v s) := by
  cases l with
  | reg r => exact h.onSetReg8 _ _ hs
  | mem a => exact h.write8 _ _ _ hs

theorem onWriteLoc16 {s : State} (l : Loc Reg16) (v : Word) (hs : P s) : P (writeLoc16 l v s) := by
  cases l with
  | reg r => exact h.onSetReg16 _ _ hs
  | mem a => exact h.onWrite16 _ _ hs

theorem onReadRM8 {s : State} (rm : RM8) (hs : P s) : P (readRM8 rm s).2 := h.onReadLoc8 _ hs
theorem onReadRM16 {s : State} (rm : RM16) (hs : P s) : P (readRM16 rm s).2 := h.onReadLoc16 _ hs

theorem onAluRead8 {s : State} (f : AluForm8) (hs : P s) : P (aluRead8 f s).2.2.2 := by
  cases f with
  | alIb => exact hs
  | gbEb g rm => exact h.onReadRM8 rm hs
  | ebGb rm | ebIb rm | ebIbDup rm => exact h.onReadLoc8 (locate rm s) hs

theorem onAluRead16 {s : State} (f : AluForm16) (hs : P s) : P (aluRead16 f s).2.2.2 := by
  cases f with
  | axIw => exact hs
  | gwEw g rm => exact h.onReadRM16 rm hs
  | ewGw rm | ewIw rm | ewIbs rm => exact h.onReadLoc16 (locate rm s) hs

theorem onAluStore {s : State} {op : BinOp} (f : AluForm) (hop : ∀ w a b s, P s → P (op w a b s).2) (hs : P s) :
    P (aluStore op f s) := by
  cases f with
  | byte f => exact h.onWriteLoc8 _ _ (hop _ _ _ _ (h.onAluRead8 f hs))
  | word f => exact h.onWriteLoc16 _ _ (hop _ _ _ _ (h.onAluRead16 f hs))

theorem onAluTest {s : State} {op : BinOp} (f : AluForm) (hop : ∀ w a b s, P s → P (op w a b s).2) (hs : P s) :
    P (aluTest op f s) := by
  cases f with
  | byte f => exact hop _ _ _ _ (h.onAluRead8 f hs)
  | word f => exact hop _ _ _ _ (h.onAluRead16 f hs)

theorem onModifyRM16 {s : State} {f : Word → State → Word × State} (rm : RM16) (hop : ∀ a s, P s → P (f a s).2)
    (hs : P s) : P (modifyRM16 rm f s) := h.onWriteLoc16 _ _ (hop _ _ (h.onReadLoc16 _ hs))

theorem onUnaryStore {s : State} {op : UnOp} (e : EOp) (hop : ∀ w a s, P s → P (op w a s).2) (hs : P s) :
    P (unaryStore op e s) := by
  cases e with
  | b rm => exact h.onWriteLoc8 _ _ (hop _ _ _ (h.onReadLoc8 _ hs))
  | w rm => exact h.onWriteLoc16 _ _ (hop _ _ _ (h.onReadLoc16 _ hs))

theorem onPortRead16 {s : State} (p : Word) (hs : P s) : P (portRead16 p s).2 :=
  h.portRead8 _ _ (h.portRead8 _ _ hs)
theorem onPortWrite16 {s : State} (p v : Word) (hs : P s) : P (portWrite16 p v s) :=
  h.portWrite8 _ _ _ (h.portWrite8 _ _ _ hs)

theorem onAdvanceSI {s : State} (n : Word) (hs : P s) : P (advanceSI n s) := h.onSetReg16 _ _ hs
theorem onAdvanceDI {s : State} (n : Word) (hs : P s) : P (advanceDI n s) := h.onSetReg16 _ _ hs

theorem onRepLoop {elem : State → State} {exit : State → Bool} (he : ∀ s, P s → P (elem s)) (n : Nat) {s : State}
    (hs : P s) : P (repLoop elem exit n s) := by
  induction n generalizing s with
  | zero => exact hs
  | succ n ih =>
    unfold repLoop
    dsimp only
    split
    · exact h.onSetReg16 _ _ (he _ hs)
    · exact ih (h.onSetReg16 _ _ (he _ hs))

theorem onRepeated {elem : State → State} (b : Bool) (he : ∀ s, P s → P (elem s)) {s : State} (hs : P s) :
    P (repeated b elem s) := by
  unfold repeated
  split
  · exact he _ hs
  · exact h.onRepLoop he _ hs

/-! ## Interrupts and their services -/

theorem onWriteBytes {s : State} (bytes : List Byte) (a : Linear) (hs : P s) : P (writeBytes bytes a s) := by
  induction bytes generalizing a s with
  | nil => exact hs
  | cons b bytes ih => exact ih _ (h.write8 _ _ _ hs)

theorem onReadBytes {s : State} (n : Nat) (a : Linear) (hs : P s) : P (readBytes n a s).2 := by
  induction n generalizing a s with
  | zero => exact hs
  | succ n ih => exact ih (a + 1) (h.touch8 _ _ hs)

theorem onHostFail {s : State} (raw : Bool) (hs : P s) : P (hostFail raw s).2 := by
  cases raw
  · exact hs
  · exact h.draws _ _ hs

theorem onReadSectors {t : Transfer} (n k : Nat) {s : State} (hs : P s) : P (readSectors t n k s).2 := by
  induction n generalizing k s with
  | zero => exact hs
  | succ n ih =>
    unfold readSectors
    dsimp only
    split
    · exact hs
    · split
      · exact h.onHostFail _ hs
      · exact ih _ (h.onWriteBytes _ _ (h.onHostFail _ hs))

omit h in
theorem mayWriteRun_of_mayInterrupt (hi : mayInterrupt i = true) : mayWriteRun i = true := by
  simp [mayWriteRun, hi]

omit h in
theorem readBytes_length (n : Nat) (a : Linear) (s : State) : (readBytes n a s).1.length = n := by
  induction n generalizing a s with
  | zero => rfl
  | succ n ih => simp [readBytes, ih]

omit h in
theorem readBytes_disk (n : Nat) (a : Linear) (s : State) : (readBytes n a s).2.disk = s.disk := by
  induction n generalizing a s with
  | zero => rfl
  | succ n ih => simp [readBytes, ih, read8_eq]

omit h in
theorem hostFail_disk (raw : Bool) (s : State) : (hostFail raw s).2.disk = s.disk := by
  cases raw <;> rfl

theorem onWriteSectors {t : Transfer} (hi : mayInterrupt i = true) (n k : Nat) {s : State} (hs : P s) :
    P (writeSectors t n k s).2 := by
  induction n generalizing k s with
  | zero => exact hs
  | succ n ih =>
    unfold writeSectors
    dsimp only
    have hr := h.onReadBytes sectorSize (t.buf + BitVec.ofNat 20 (sectorSize * k)) hs
    have hl := readBytes_length sectorSize (t.buf + BitVec.ofNat 20 (sectorSize * k)) s
    have hd := readBytes_disk sectorSize (t.buf + BitVec.ofNat 20 (sectorSize * k)) s
    generalize readBytes sectorSize (t.buf + BitVec.ofNat 20 (sectorSize * k)) s = r at hr hl hd ⊢
    split
    · exact hr
    · rename_i hsz
      have hf := h.onHostFail (s.disk.at t.drive).raw hr
      split
      · refine h.storeSector _ _ _ _ hi ?_ (h.draws _ _ hf)
        simp only [drawBytes, List.length_map, List.length_range, State.setDraws_disk, hostFail_disk, hd]
        omega
      · refine ih _ (h.storeSector _ _ _ _ hi ?_ hf)
        rw [hostFail_disk, hd, hl]
        omega

theorem onTransferResult {s : State} (m : Moved) (hs : P s) : P (transferResult m s) := by
  unfold transferResult
  dsimp only
  split <;> exact h.onSetFlag _ _ (by decide) (h.onSetReg8 _ _ (h.onSetReg8 _ _ hs))

theorem onInt13Success {s : State} (hs : P s) : P (int13Success s) := h.onSetFlag _ _ (by decide) (h.onSetReg8 _ _ hs)

theorem onInt13Dispatch {s : State} (hi : mayInterrupt i = true) (hs : P s) : P (int13Dispatch s) := by
  unfold int13Dispatch
  split
  · exact h.onInt13Success hs
  · exact h.onInt13Success hs
  · exact h.onInt13Success hs
  · exact h.onSetFlag _ _ (by decide) (h.onSetReg8 _ _ hs)
  · unfold int13Read
    split
    · exact h.onTransferResult _ hs
    · exact h.onTransferResult _ (h.onReadSectors _ _ hs)
  · unfold int13Write
    split
    · exact h.onTransferResult _ hs
    · exact h.onTransferResult _ (h.onWriteSectors hi _ _ hs)
  · unfold int13Params
    dsimp only
    split
    · exact h.onSetFlag _ _ (by decide) (h.onSetReg8 _ _ hs)
    · have h3 := h.onSetReg8 .dh (BitVec.ofNat 8 (s.disk.at (reg8 .dl s)).heads - 1) (h.onSetReg8 .cl
        (BitVec.ofNat 8 (s.disk.at (reg8 .dl s)).sects ||| (BitVec.ofNat 8 ((s.disk.at (reg8 .dl s)).cyls / 256) <<< 6))
        (h.onSetReg8 .ch (BitVec.ofNat 8 (s.disk.at (reg8 .dl s)).cyls - 1) hs))
      split
      · exact h.onInt13Success (h.onSetReg8 _ _ h3)
      · exact h.onInt13Success (h.onSetReg8 _ _ (h.onSetReg8 _ _ h3))
  · exact h.onSetFlag _ _ (by decide) hs

theorem onInt13 {s : State} (hi : mayInterrupt i = true) (hs : P s) : P (int13 s) := by
  unfold int13 int13Status
  dsimp only
  have hd := h.status _ (reg8 .dl s) (reg8 .ah (int13Dispatch s)) (int13Dispatch s).flags.CF hi
    (h.onInt13Dispatch hi hs)
  split
  · exact h.write8 _ _ _ hd
  · exact hd

theorem onInt10 {s t : State} (hi : mayInterrupt i = true) (ht : int10 s = .ok t) (hs : P s) : P t := by
  unfold int10 at ht
  split at ht
  · dsimp only at ht
    split at ht
    · cases ht; exact h.setMode _ _ _ _ hi ‹_› hs
    · cases ht
  · cases ht; exact h.onSetReg8 _ _ (h.onSetReg8 _ _ (h.onSetReg8 _ _ hs))
  · cases ht; exact hs

theorem onVectored {s : State} (n : Byte) (ret : Word) (hi : mayInterrupt i = true) (hs : P s) :
    P (vectored n ret s) := by
  have hTF : mayWriteTF i = true := by simp [mayWriteTF, hi]
  have hIF : mayWriteIF i = true := by simp [mayWriteIF, hi]
  have hCS : mayWriteCS i = true := by simp [mayWriteCS, hi]
  have hRun := mayWriteRun_of_mayInterrupt hi
  have clear {s : State} (hs : P s) : P (setFlag .tf false (setFlag .if false s)) :=
    h.flags s ((s.flags.set .if false).set .tf false) (.inl hTF) (.inl hIF) (.inr rfl) hs
  unfold vectored
  simp only [read16_eq]
  exact h.run _ _ hRun (h.sreg _ _ _ (fun _ => hCS) (h.onTouch16 _ (h.ip _ _ (h.onTouch16 _
    (h.onPush16 _ (h.onPush16 _ (clear (h.onPush16 _ hs))))))))

theorem onServed {s : State} (ret : Word) (hi : mayInterrupt i = true) (hs : P s) : P (served ret s) :=
  h.run _ _ (mayWriteRun_of_mayInterrupt hi) (h.ip _ _ hs)

theorem onInterrupt {s t : State} {n : Byte} {ret : Word} (hi : mayInterrupt i = true)
    (ht : interrupt n ret s = .next t) (hs : P s) : P t := by
  unfold interrupt at ht
  split at ht
  · split at ht
    · cases ht; exact h.onServed _ hi (h.onInt10 hi ‹_› hs)
    · cases ht
  · split at ht
    · cases ht; exact h.onServed _ hi (h.onInt13 hi hs)
    · cases ht; exact h.onVectored _ _ hi hs

theorem onDivideError {s t : State} (hi : mayInterrupt i = true) (ht : divideError s = .next t) (hs : P s) : P t := by
  unfold divideError at ht
  split at ht
  · cases ht; exact h.onUndefine _ (by decide) (h.onInterrupt hi ‹_› hs)
  · cases ht
  · cases ht

theorem onPop16Reg {s : State} (k : Reg16) (hs : P s) : P (popInto k s) := h.onSetReg16 _ _ (h.onPop16 hs)

theorem onPushRegValue {s : State} (k : Reg16) (hs : P s) : P (pushRegValue k s) := h.onPush16 _ hs

theorem onReadFar {s : State} (a : Linear) (hs : P s) : P (readFar a s).2.2 := by
  rw [readFar_eq]; exact h.onTouch16 _ (h.onTouch16 _ hs)

theorem onRetNear {s : State} (hs : P s) : P (retNear s) := h.ip _ _ (h.onPop16 hs)

theorem onPushReturnFar {s : State} (hs : P s) : P (pushReturnFar s) := h.onPush16 _ (h.onPush16 _ hs)

theorem onInPort {s : State} (a : Acc) (p : Word) (hs : P s) : P (inPort a p s) := by
  cases a
  · exact h.onSetReg8 _ _ (h.portRead8 _ _ hs)
  · exact h.onSetReg16 _ _ (h.onPortRead16 _ hs)

theorem onOutPort {s : State} (a : Acc) (p : Word) (hs : P s) : P (outPort a p s) := by
  cases a
  · exact h.portWrite8 _ _ _ hs
  · exact h.onPortWrite16 _ _ hs

theorem onJumpIf {s : State} (c : State → Bool) (rel : Byte) (hs : P s) : P (jumpIf c rel s) := by
  unfold jumpIf
  split
  · exact h.onJumpRel _ hs
  · exact hs

theorem onShift {s : State} (sh : Shifter) (e : EOp) (c : ShiftCount) (hs : P s) : P (shift sh e c s) := by
  unfold shift
  dsimp only
  split
  · cases e
    · exact h.onReadRM8 _ hs
    · exact h.onReadRM16 _ hs
  · refine h.onUnaryStore e (fun w x s hs => ?_) hs
    unfold shiftOp
    dsimp only
    have h1 := h.onSetFlag .cf (shiftSteps sh (shiftCount c ‹State›) x (flag .cf s)).2 (by decide) hs
    split <;> split <;>
      first
      | exact h.onUndefine _ (by decide) (h.onSzpFlags _ (h.onSetFlag _ _ (by decide) (h.onSetFlag _ _ (by decide) hs)))
      | exact h.onUndefine _ (by decide) (h.onSzpFlags _ (h.onUndefine _ (by decide) (h.onSetFlag _ _ (by decide) hs)))
      | exact h.onSetFlag _ _ (by decide) (h.onSetFlag _ _ (by decide) hs)
      | exact h.onUndefine _ (by decide) (h.onSetFlag _ _ (by decide) hs)

theorem onMulFlags {s : State} (b : Bool) (hs : P s) : P (mulFlags b s) :=
  h.onUndefine _ (by decide) (h.onSetFlag _ _ (by decide) (h.onSetFlag _ _ (by decide) hs))

theorem onAsciiAdjust {s : State} (f g : Byte → Byte) (hs : P s) : P (asciiAdjust f g s) := by
  unfold asciiAdjust
  dsimp only
  refine h.onUndefine _ (by decide) (h.onSetFlag _ _ (by decide) (h.onSetFlag _ _ (by decide) (h.onSetReg8 _ _ ?_)))
  split
  · exact h.onSetReg8 _ _ (h.onSetReg8 _ _ hs)
  · exact hs

theorem onEnterCopy {s : State} (n : Nat) (hs : P s) : P (enterCopy n s) := by
  induction n generalizing s with
  | zero => exact hs
  | succ n ih =>
    unfold enterCopy
    simp only [read16_eq]
    exact ih (h.onPush16 _ (h.onTouch16 _ (h.onSetReg16 _ _ hs)))

end Stable
end Sys2Proof.Machine
end

