-- ==== Sys2Proof/Laws/ExecStable.lean ====
section
/-! SUPPORT. Every instruction keeps what the primitive updates it may use keep. -/

namespace Sys2Proof.Machine

variable {i : Instr} {P : State → Prop} {s t : State}

theorem Stable.exec_prefixES
    (h : Stable (.prefixES) P) (he : exec (.prefixES) s = .next t) (hs : P s) : P t := by
  cases he; exact h.segOverride _ _ rfl hs

theorem Stable.exec_prefixCS
    (h : Stable (.prefixCS) P) (he : exec (.prefixCS) s = .next t) (hs : P s) : P t := by
  cases he; exact h.segOverride _ _ rfl hs

theorem Stable.exec_prefixSS
    (h : Stable (.prefixSS) P) (he : exec (.prefixSS) s = .next t) (hs : P s) : P t := by
  cases he; exact h.segOverride _ _ rfl hs

theorem Stable.exec_prefixDS
    (h : Stable (.prefixDS) P) (he : exec (.prefixDS) s = .next t) (hs : P s) : P t := by
  cases he; exact h.segOverride _ _ rfl hs

theorem Stable.exec_lock
    (_ : Stable (.lock) P) (he : exec (.lock) s = .next t) (hs : P s) : P t := by
  cases he; exact hs

theorem Stable.exec_repne
    (h : Stable (.repne) P) (he : exec (.repne) s = .next t) (hs : P s) : P t := by
  cases he; exact h.rep _ _ rfl hs

theorem Stable.exec_rep
    (h : Stable (.rep) P) (he : exec (.rep) s = .next t) (hs : P s) : P t := by
  cases he; exact h.rep _ _ rfl hs

theorem Stable.exec_mov (f : MovForm)
    (h : Stable (.mov f) P) (he : exec (.mov f) s = .next t) (hs : P s) : P t := by
  cases he
  cases f with
  | ebGb rm g => exact h.onWriteLoc8 _ _ hs
  | ewGw rm g => exact h.onWriteLoc16 _ _ hs
  | gbEb g rm => exact h.onSetReg8 _ _ (h.onReadRM8 rm hs)
  | gwEw g rm => exact h.onSetReg16 _ _ (h.onReadRM16 rm hs)

theorem Stable.exec_movEImm (f : EImm)
    (h : Stable (.movEImm f) P) (he : exec (.movEImm f) s = .next t) (hs : P s) : P t := by
  cases he
  cases f with
  | b rm i => exact h.onWriteLoc8 _ _ hs
  | w rm i => exact h.onWriteLoc16 _ _ hs

theorem Stable.exec_movRegImm (f : RegImm)
    (h : Stable (.movRegImm f) P) (he : exec (.movRegImm f) s = .next t) (hs : P s) : P t := by
  cases he
  cases f with
  | b r i => exact h.onSetReg8 _ _ hs
  | w r i => exact h.onSetReg16 _ _ hs

theorem Stable.exec_movMoffs (f : MoffsForm)
    (h : Stable (.movMoffs f) P) (he : exec (.movMoffs f) s = .next t) (hs : P s) : P t := by
  cases he
  cases f with
  | alOb o => exact h.onSetReg8 _ _ (h.touch8 _ _ hs)
  | axOw o => exact h.onSetReg16 _ _ (h.onRead16 _ hs)
  | obAl o => exact h.write8 _ _ _ hs
  | owAx o => exact h.onWrite16 _ _ hs

theorem Stable.exec_movFromSreg (rm : RM16) (sr : Sreg)
    (h : Stable (.movFromSreg rm sr) P) (he : exec (.movFromSreg rm sr) s = .next t) (hs : P s) : P t := by
  cases he; exact h.onWriteLoc16 _ _ hs

theorem Stable.exec_movToSreg (sr : Sreg) (rm : RM16)
    (h : Stable (.movToSreg sr rm) P) {ext186 : Bool}
    (hw : (Instr.movToSreg sr rm).wf ext186 = true) (he : exec (.movToSreg sr rm) s = .next t) (hs : P s) : P t := by
  cases he
  exact h.sreg _ _ _ (fun hk => by subst hk; exact absurd hw (by simp [Instr.wf])) (h.onReadRM16 rm hs)

theorem Stable.exec_movCS (rm : RM16)
    (h : Stable (.movCS rm) P) (he : exec (.movCS rm) s = .next t) (hs : P s) : P t := by
  cases he; exact h.run _ _ rfl hs

theorem Stable.exec_reservedSreg (m : SregMove) (k : BitVec 2) (rm : RM16)
    (h : Stable (.reservedSreg m k rm) P) (he : exec (.reservedSreg m k rm) s = .next t) (hs : P s) : P t := by
  cases he; exact h.run _ _ rfl hs

theorem Stable.exec_pushReg (r : Reg16)
    (h : Stable (.pushReg r) P) (he : exec (.pushReg r) s = .next t) (hs : P s) : P t := by
  cases he; exact h.onPush16 _ hs

theorem Stable.exec_popReg (r : Reg16)
    (h : Stable (.popReg r) P) (he : exec (.popReg r) s = .next t) (hs : P s) : P t := by
  cases he; exact h.onPop16Reg _ hs

theorem Stable.exec_pushSreg (sr : Sreg)
    (h : Stable (.pushSreg sr) P) (he : exec (.pushSreg sr) s = .next t) (hs : P s) : P t := by
  cases he; exact h.onPush16 _ hs

theorem Stable.exec_popSreg (sr : Sreg)
    (h : Stable (.popSreg sr) P) {ext186 : Bool}
    (hw : (Instr.popSreg sr).wf ext186 = true) (he : exec (.popSreg sr) s = .next t) (hs : P s) : P t := by
  cases he
  exact h.sreg _ _ _ (fun hk => by subst hk; exact absurd hw (by simp [Instr.wf])) (h.onPop16 hs)

theorem Stable.exec_pushE (rm : RM16)
    (h : Stable (.pushE rm) P) (he : exec (.pushE rm) s = .next t) (hs : P s) : P t := by
  cases he; exact h.onPush16 _ (h.onReadRM16 rm hs)

theorem Stable.exec_popE (rm : RM16)
    (h : Stable (.popE rm) P) (he : exec (.popE rm) s = .next t) (hs : P s) : P t := by
  cases he; exact h.onWriteLoc16 _ _ (h.onPop16 hs)

theorem Stable.exec_xchg (f : XchgForm)
    (h : Stable (.xchg f) P) (he : exec (.xchg f) s = .next t) (hs : P s) : P t := by
  cases he
  cases f with
  | b rm g => exact h.onSetReg8 _ _ (h.onWriteLoc8 _ _ (h.onReadLoc8 _ hs))
  | w rm g => exact h.onSetReg16 _ _ (h.onWriteLoc16 _ _ (h.onReadLoc16 _ hs))

theorem Stable.exec_xchgAX (r : Reg16)
    (h : Stable (.xchgAX r) P) (he : exec (.xchgAX r) s = .next t) (hs : P s) : P t := by
  cases he; exact h.onSetReg16 _ _ (h.onSetReg16 _ _ hs)

theorem Stable.exec_nop
    (_ : Stable (.nop) P) (he : exec (.nop) s = .next t) (hs : P s) : P t := by
  cases he; exact hs

theorem Stable.exec_lea (g : Reg16) (rm : RM16)
    (h : Stable (.lea g rm) P) (he : exec (.lea g rm) s = .next t) (hs : P s) : P t := by
  cases he
  cases rm with
  | mem m => exact h.onSetReg16 _ _ hs
  | reg r => exact h.run _ _ rfl hs

theorem Stable.exec_lds (g : Reg16) (rm : RM16)
    (h : Stable (.lds g rm) P) (he : exec (.lds g rm) s = .next t) (hs : P s) : P t := by
  cases he
  cases rm with
  | mem m => exact h.sreg _ _ _ (fun hk => absurd hk (by decide)) (h.onSetReg16 _ _ (h.onReadFar _ hs))
  | reg r => exact h.run _ _ rfl hs

theorem Stable.exec_les (g : Reg16) (rm : RM16)
    (h : Stable (.les g rm) P) (he : exec (.les g rm) s = .next t) (hs : P s) : P t := by
  cases he
  cases rm with
  | mem m => exact h.sreg _ _ _ (fun hk => absurd hk (by decide)) (h.onSetReg16 _ _ (h.onReadFar _ hs))
  | reg r => exact h.run _ _ rfl hs

theorem Stable.exec_xlat
    (h : Stable (.xlat) P) (he : exec (.xlat) s = .next t) (hs : P s) : P t := by
  cases he; exact h.onSetReg8 _ _ (h.touch8 _ _ hs)

theorem Stable.exec_inImm (a : Acc) (port : Byte)
    (h : Stable (.inImm a port) P) (he : exec (.inImm a port) s = .next t) (hs : P s) : P t := by
  cases he; exact h.onInPort _ _ hs

theorem Stable.exec_inDX (a : Acc)
    (h : Stable (.inDX a) P) (he : exec (.inDX a) s = .next t) (hs : P s) : P t := by
  cases he; exact h.onInPort _ _ hs

theorem Stable.exec_outImm (port : Byte) (a : Acc)
    (h : Stable (.outImm port a) P) (he : exec (.outImm port a) s = .next t) (hs : P s) : P t := by
  cases he; exact h.onOutPort _ _ hs

theorem Stable.exec_outDX (a : Acc)
    (h : Stable (.outDX a) P) (he : exec (.outDX a) s = .next t) (hs : P s) : P t := by
  cases he; exact h.onOutPort _ _ hs

theorem Stable.exec_lahf
    (h : Stable (.lahf) P) (he : exec (.lahf) s = .next t) (hs : P s) : P t := by
  cases he; exact h.onSetReg8 _ _ hs

theorem Stable.exec_sahf
    (h : Stable (.sahf) P) (he : exec (.sahf) s = .next t) (hs : P s) : P t := by
  cases he; exact h.arith _ hs

theorem Stable.exec_pushf
    (h : Stable (.pushf) P) (he : exec (.pushf) s = .next t) (hs : P s) : P t := by
  cases he; exact h.onPush16 _ hs

theorem Stable.exec_popf
    (h : Stable (.popf) P) (he : exec (.popf) s = .next t) (hs : P s) : P t := by
  cases he; exact h.flags _ _ (.inl rfl) (.inl rfl) (.inl rfl) (h.onPop16 hs)

theorem Stable.exec_cbw
    (h : Stable (.cbw) P) (he : exec (.cbw) s = .next t) (hs : P s) : P t := by
  cases he; exact h.onSetReg16 _ _ hs

theorem Stable.exec_cwd
    (h : Stable (.cwd) P) (he : exec (.cwd) s = .next t) (hs : P s) : P t := by
  cases he; exact h.onSetReg16 _ _ hs

theorem Stable.exec_add (f : AluForm)
    (h : Stable (.add f) P) (he : exec (.add f) s = .next t) (hs : P s) : P t := by
  cases he; exact h.onAluStore f (fun _ _ _ _ hs => h.onAddFlags _ _ _ hs) hs

theorem Stable.exec_adc (f : AluForm)
    (h : Stable (.adc f) P) (he : exec (.adc f) s = .next t) (hs : P s) : P t := by
  cases he; exact h.onAluStore f (fun _ _ _ _ hs => h.onAddFlags _ _ _ hs) hs

theorem Stable.exec_sub (f : AluForm)
    (h : Stable (.sub f) P) (he : exec (.sub f) s = .next t) (hs : P s) : P t := by
  cases he; exact h.onAluStore f (fun _ _ _ _ hs => h.onSubFlags _ _ _ hs) hs

theorem Stable.exec_sbb (f : AluForm)
    (h : Stable (.sbb f) P) (he : exec (.sbb f) s = .next t) (hs : P s) : P t := by
  cases he; exact h.onAluStore f (fun _ _ _ _ hs => h.onSubFlags _ _ _ hs) hs

theorem Stable.exec_cmp (f : AluForm)
    (h : Stable (.cmp f) P) (he : exec (.cmp f) s = .next t) (hs : P s) : P t := by
  cases he; exact h.onAluTest f (fun _ _ _ _ hs => h.onSubFlags _ _ _ hs) hs

theorem Stable.exec_incReg (r : Reg16)
    (h : Stable (.incReg r) P) (he : exec (.incReg r) s = .next t) (hs : P s) : P t := by
  cases he; exact h.onModifyRM16 (.reg r) (fun _ _ hs => h.onSetFlag _ _ (by decide) (h.onAddFlags _ _ _ hs)) hs

theorem Stable.exec_incE (e : EOp)
    (h : Stable (.incE e) P) (he : exec (.incE e) s = .next t) (hs : P s) : P t := by
  cases he; exact h.onUnaryStore e (fun _ _ _ hs => h.onSetFlag _ _ (by decide) (h.onAddFlags _ _ _ hs)) hs

theorem Stable.exec_decReg (r : Reg16)
    (h : Stable (.decReg r) P) (he : exec (.decReg r) s = .next t) (hs : P s) : P t := by
  cases he; exact h.onModifyRM16 (.reg r) (fun _ _ hs => h.onSetFlag _ _ (by decide) (h.onSubFlags _ _ _ hs)) hs

theorem Stable.exec_decE (e : EOp)
    (h : Stable (.decE e) P) (he : exec (.decE e) s = .next t) (hs : P s) : P t := by
  cases he; exact h.onUnaryStore e (fun _ _ _ hs => h.onSetFlag _ _ (by decide) (h.onSubFlags _ _ _ hs)) hs

theorem Stable.exec_neg (e : EOp)
    (h : Stable (.neg e) P) (he : exec (.neg e) s = .next t) (hs : P s) : P t := by
  cases he; exact h.onUnaryStore e (fun _ _ _ hs => h.onSubFlags _ _ _ hs) hs

theorem Stable.exec_mul (e : EOp)
    (h : Stable (.mul e) P) (he : exec (.mul e) s = .next t) (hs : P s) : P t := by
  cases he
  cases e with
  | b rm => exact h.onMulFlags _ (h.onSetReg16 _ _ (h.onReadRM8 rm hs))
  | w rm => exact h.onMulFlags _ (h.onSetReg16 _ _ (h.onSetReg16 _ _ (h.onReadRM16 rm hs)))

theorem Stable.exec_imul (e : EOp)
    (h : Stable (.imul e) P) (he : exec (.imul e) s = .next t) (hs : P s) : P t := by
  cases he
  cases e with
  | b rm => exact h.onMulFlags _ (h.onSetReg16 _ _ (h.onReadRM8 rm hs))
  | w rm => exact h.onMulFlags _ (h.onSetReg16 _ _ (h.onSetReg16 _ _ (h.onReadRM16 rm hs)))

theorem Stable.exec_div (e : EOp)
    (h : Stable (.div e) P) (he : exec (.div e) s = .next t) (hs : P s) : P t := by
  cases e with
  | b rm =>
    have hr := h.onReadRM8 rm hs
    by_cases hd : (readRM8 rm s).1.toNat = 0 ∨ 0xFF < (reg16 .ax (readRM8 rm s).2).toNat / (readRM8 rm s).1.toNat
    · exact h.onDivideError rfl ((if_pos hd).symm.trans he) hr
    · cases (if_neg hd).symm.trans he
      exact h.onUndefine _ (by decide) (h.onSetReg8 _ _ (h.onSetReg8 _ _ hr))
  | w rm =>
    have hr := h.onReadRM16 rm hs
    by_cases hd : (readRM16 rm s).1.toNat = 0 ∨
        0xFFFF < (reg16 .dx (readRM16 rm s).2 ++ reg16 .ax (readRM16 rm s).2).toNat / (readRM16 rm s).1.toNat
    · exact h.onDivideError rfl ((if_pos hd).symm.trans he) hr
    · cases (if_neg hd).symm.trans he
      exact h.onUndefine _ (by decide) (h.onSetReg16 _ _ (h.onSetReg16 _ _ hr))

theorem Stable.exec_idiv (e : EOp)
    (h : Stable (.idiv e) P) (he : exec (.idiv e) s = .next t) (hs : P s) : P t := by
  cases e with
  | b rm =>
    have hr := h.onReadRM8 rm hs
    by_cases hd : (readRM8 rm s).1.toInt = 0 ∨ 127 < (reg16 .ax (readRM8 rm s).2).toInt.tdiv (readRM8 rm s).1.toInt ∨
        (reg16 .ax (readRM8 rm s).2).toInt.tdiv (readRM8 rm s).1.toInt < idivLeast 128 (readRM8 rm s).2
    · exact h.onDivideError rfl ((if_pos hd).symm.trans he) hr
    · cases (if_neg hd).symm.trans he
      exact h.onUndefine _ (by decide) (h.onSetReg8 _ _ (h.onSetReg8 _ _ hr))
  | w rm =>
    have hr := h.onReadRM16 rm hs
    by_cases hd : (readRM16 rm s).1.toInt = 0 ∨
        32767 < (reg16 .dx (readRM16 rm s).2 ++ reg16 .ax (readRM16 rm s).2).toInt.tdiv (readRM16 rm s).1.toInt ∨
        (reg16 .dx (readRM16 rm s).2 ++ reg16 .ax (readRM16 rm s).2).toInt.tdiv (readRM16 rm s).1.toInt <
          idivLeast 32768 (readRM16 rm s).2
    · exact h.onDivideError rfl ((if_pos hd).symm.trans he) hr
    · cases (if_neg hd).symm.trans he
      exact h.onUndefine _ (by decide) (h.onSetReg16 _ _ (h.onSetReg16 _ _ hr))

theorem Stable.exec_daa
    (h : Stable (.daa) P) (he : exec (.daa) s = .next t) (hs : P s) : P t := by
  cases he; exact h.onUndefine _ (by decide) (h.onSzpFlags _ (h.onSetFlag _ _ (by decide) (h.onSetFlag _ _ (by decide)
    (h.onSetReg8 _ _ hs))))

theorem Stable.exec_das
    (h : Stable (.das) P) (he : exec (.das) s = .next t) (hs : P s) : P t := by
  cases he; exact h.onUndefine _ (by decide) (h.onSzpFlags _ (h.onSetFlag _ _ (by decide) (h.onSetFlag _ _ (by decide)
    (h.onSetReg8 _ _ hs))))

theorem Stable.exec_aaa
    (h : Stable (.aaa) P) (he : exec (.aaa) s = .next t) (hs : P s) : P t := by
  cases he; exact h.onAsciiAdjust _ _ hs

theorem Stable.exec_aas
    (h : Stable (.aas) P) (he : exec (.aas) s = .next t) (hs : P s) : P t := by
  cases he; exact h.onAsciiAdjust _ _ hs

theorem Stable.exec_aam (i : Byte)
    (h : Stable (.aam i) P) (he : exec (.aam i) s = .next t) (hs : P s) : P t := by
  by_cases hd : i = 0#8
  · exact h.onDivideError rfl ((if_pos hd).symm.trans he) hs
  · cases (if_neg hd).symm.trans he
    exact h.onUndefine _ (by decide) (h.onSzpFlags _ (h.onSetReg8 _ _ (h.onSetReg8 _ _ hs)))

theorem Stable.exec_aad (i : Byte)
    (h : Stable (.aad i) P) (he : exec (.aad i) s = .next t) (hs : P s) : P t := by
  cases he; exact h.onUndefine _ (by decide) (h.onSzpFlags _ (h.onSetReg8 _ _ (h.onSetReg8 _ _ hs)))

theorem Stable.exec_and (f : AluForm)
    (h : Stable (.and f) P) (he : exec (.and f) s = .next t) (hs : P s) : P t := by
  cases he; exact h.onAluStore f (fun _ _ _ _ hs => h.onLogicFlags _ hs) hs

theorem Stable.exec_or (f : AluForm)
    (h : Stable (.or f) P) (he : exec (.or f) s = .next t) (hs : P s) : P t := by
  cases he; exact h.onAluStore f (fun _ _ _ _ hs => h.onLogicFlags _ hs) hs

theorem Stable.exec_xor (f : AluForm)
    (h : Stable (.xor f) P) (he : exec (.xor f) s = .next t) (hs : P s) : P t := by
  cases he; exact h.onAluStore f (fun _ _ _ _ hs => h.onLogicFlags _ hs) hs

theorem Stable.exec_test (f : TestForm)
    (h : Stable (.test f) P) (he : exec (.test f) s = .next t) (hs : P s) : P t := by
  cases he
  cases f with
  | ebGb rm | ebIb rm => exact h.onLogicFlags _ (h.onReadRM8 rm hs)
  | ewGw rm | ewIw rm => exact h.onLogicFlags _ (h.onReadRM16 rm hs)
  | alIb | axIw => exact h.onLogicFlags _ hs

theorem Stable.exec_not (e : EOp)
    (h : Stable (.not e) P) (he : exec (.not e) s = .next t) (hs : P s) : P t := by
  cases he; exact h.onUnaryStore e (fun _ _ _ hs => hs) hs

theorem Stable.exec_rol (e : EOp) (c : ShiftCount)
    (h : Stable (.rol e c) P) (he : exec (.rol e c) s = .next t) (hs : P s) : P t := by
  cases he; exact h.onShift _ _ _ hs

theorem Stable.exec_ror (e : EOp) (c : ShiftCount)
    (h : Stable (.ror e c) P) (he : exec (.ror e c) s = .next t) (hs : P s) : P t := by
  cases he; exact h.onShift _ _ _ hs

theorem Stable.exec_rcl (e : EOp) (c : ShiftCount)
    (h : Stable (.rcl e c) P) (he : exec (.rcl e c) s = .next t) (hs : P s) : P t := by
  cases he; exact h.onShift _ _ _ hs

theorem Stable.exec_rcr (e : EOp) (c : ShiftCount)
    (h : Stable (.rcr e c) P) (he : exec (.rcr e c) s = .next t) (hs : P s) : P t := by
  cases he; exact h.onShift _ _ _ hs

theorem Stable.exec_shl (e : EOp) (c : ShiftCount)
    (h : Stable (.shl e c) P) (he : exec (.shl e c) s = .next t) (hs : P s) : P t := by
  cases he; exact h.onShift _ _ _ hs

theorem Stable.exec_shr (e : EOp) (c : ShiftCount)
    (h : Stable (.shr e c) P) (he : exec (.shr e c) s = .next t) (hs : P s) : P t := by
  cases he; exact h.onShift _ _ _ hs

theorem Stable.exec_sar (e : EOp) (c : ShiftCount)
    (h : Stable (.sar e c) P) (he : exec (.sar e c) s = .next t) (hs : P s) : P t := by
  cases he; exact h.onShift _ _ _ hs

theorem Stable.exec_movsb
    (h : Stable (.movsb) P) (he : exec (.movsb) s = .next t) (hs : P s) : P t := by
  cases he; exact h.onRepeated _ (fun _ hs => h.onAdvanceDI _ (h.onAdvanceSI _ (h.write8 _ _ _ (h.touch8 _ _ hs)))) hs

theorem Stable.exec_movsw
    (h : Stable (.movsw) P) (he : exec (.movsw) s = .next t) (hs : P s) : P t := by
  cases he; exact h.onRepeated _ (fun _ hs => h.onAdvanceDI _ (h.onAdvanceSI _ (h.onWrite16 _ _ (h.onRead16 _ hs)))) hs

theorem Stable.exec_cmpsb
    (h : Stable (.cmpsb) P) (he : exec (.cmpsb) s = .next t) (hs : P s) : P t := by
  cases he; exact h.onRepeated _ (fun _ hs => h.onAdvanceDI _ (h.onAdvanceSI _ (h.onSubFlags _ _ _ (h.touch8 _ _
    (h.touch8 _ _ hs))))) hs

theorem Stable.exec_cmpsw
    (h : Stable (.cmpsw) P) (he : exec (.cmpsw) s = .next t) (hs : P s) : P t := by
  cases he; exact h.onRepeated _ (fun _ hs => h.onAdvanceDI _ (h.onAdvanceSI _ (h.onSubFlags _ _ _ (h.onRead16 _
    (h.onRead16 _ hs))))) hs

theorem Stable.exec_scasb
    (h : Stable (.scasb) P) (he : exec (.scasb) s = .next t) (hs : P s) : P t := by
  cases he; exact h.onRepeated _ (fun _ hs => h.onAdvanceDI _ (h.onSubFlags _ _ _ (h.touch8 _ _ hs))) hs

theorem Stable.exec_scasw
    (h : Stable (.scasw) P) (he : exec (.scasw) s = .next t) (hs : P s) : P t := by
  cases he; exact h.onRepeated _ (fun _ hs => h.onAdvanceDI _ (h.onSubFlags _ _ _ (h.onRead16 _ hs))) hs

theorem Stable.exec_lodsb
    (h : Stable (.lodsb) P) (he : exec (.lodsb) s = .next t) (hs : P s) : P t := by
  cases he; exact h.onRepeated _ (fun _ hs => h.onAdvanceSI _ (h.onSetReg8 _ _ (h.touch8 _ _ hs))) hs

theorem Stable.exec_lodsw
    (h : Stable (.lodsw) P) (he : exec (.lodsw) s = .next t) (hs : P s) : P t := by
  cases he; exact h.onRepeated _ (fun _ hs => h.onAdvanceSI _ (h.onSetReg16 _ _ (h.onRead16 _ hs))) hs

theorem Stable.exec_stosb
    (h : Stable (.stosb) P) (he : exec (.stosb) s = .next t) (hs : P s) : P t := by
  cases he; exact h.onRepeated _ (fun _ hs => h.onAdvanceDI _ (h.write8 _ _ _ hs)) hs

theorem Stable.exec_stosw
    (h : Stable (.stosw) P) (he : exec (.stosw) s = .next t) (hs : P s) : P t := by
  cases he; exact h.onRepeated _ (fun _ hs => h.onAdvanceDI _ (h.onWrite16 _ _ hs)) hs

theorem Stable.exec_jmpShort (rel : Byte)
    (h : Stable (.jmpShort rel) P) (he : exec (.jmpShort rel) s = .next t) (hs : P s) : P t := by
  cases he; exact h.onJumpRel _ hs

theorem Stable.exec_jmpNear (rel : Word)
    (h : Stable (.jmpNear rel) P) (he : exec (.jmpNear rel) s = .next t) (hs : P s) : P t := by
  cases he; exact h.ip _ _ hs

theorem Stable.exec_jmpFar (off seg : Word)
    (h : Stable (.jmpFar off seg) P) (he : exec (.jmpFar off seg) s = .next t) (hs : P s) : P t := by
  cases he; exact h.sreg _ _ _ (fun _ => rfl) (h.ip _ _ hs)

theorem Stable.exec_jmpE (rm : RM16)
    (h : Stable (.jmpE rm) P) (he : exec (.jmpE rm) s = .next t) (hs : P s) : P t := by
  cases he; exact h.ip _ _ (h.onReadRM16 rm hs)

theorem Stable.exec_jmpM (rm : RM16)
    (h : Stable (.jmpM rm) P) (he : exec (.jmpM rm) s = .next t) (hs : P s) : P t := by
  cases he
  cases rm with
  | mem m => exact h.sreg _ _ _ (fun _ => rfl) (h.ip _ _ (h.onReadFar _ hs))
  | reg r => exact h.run _ _ rfl hs

theorem Stable.exec_callNear (rel : Word)
    (h : Stable (.callNear rel) P) (he : exec (.callNear rel) s = .next t) (hs : P s) : P t := by
  cases he; exact h.ip _ _ (h.onPush16 _ hs)

theorem Stable.exec_callFar (off seg : Word)
    (h : Stable (.callFar off seg) P) (he : exec (.callFar off seg) s = .next t) (hs : P s) : P t := by
  cases he; exact h.sreg _ _ _ (fun _ => rfl) (h.ip _ _ (h.onPushReturnFar hs))

theorem Stable.exec_callE (rm : RM16)
    (h : Stable (.callE rm) P) (he : exec (.callE rm) s = .next t) (hs : P s) : P t := by
  cases he; exact h.ip _ _ (h.onPush16 _ (h.onReadRM16 rm hs))

theorem Stable.exec_callM (rm : RM16)
    (h : Stable (.callM rm) P) (he : exec (.callM rm) s = .next t) (hs : P s) : P t := by
  cases he
  cases rm with
  | mem m => exact h.sreg _ _ _ (fun _ => rfl) (h.ip _ _ (h.onPushReturnFar (h.onReadFar _ hs)))
  | reg r => exact h.run _ _ rfl hs

theorem Stable.exec_ret
    (h : Stable (.ret) P) (he : exec (.ret) s = .next t) (hs : P s) : P t := by
  cases he; exact h.onRetNear hs

theorem Stable.exec_retImm (n : Word)
    (h : Stable (.retImm n) P) (he : exec (.retImm n) s = .next t) (hs : P s) : P t := by
  cases he; exact h.onSetReg16 _ _ (h.onRetNear hs)

theorem Stable.exec_retf
    (h : Stable (.retf) P) (he : exec (.retf) s = .next t) (hs : P s) : P t := by
  cases he; exact h.sreg _ _ _ (fun _ => rfl) (h.onPop16 (h.onRetNear hs))

theorem Stable.exec_retfImm (n : Word)
    (h : Stable (.retfImm n) P) (he : exec (.retfImm n) s = .next t) (hs : P s) : P t := by
  cases he; exact h.onSetReg16 _ _ (h.sreg _ _ _ (fun _ => rfl) (h.onPop16 (h.onRetNear hs)))

theorem Stable.exec_jo (rel : Byte)
    (h : Stable (.jo rel) P) (he : exec (.jo rel) s = .next t) (hs : P s) : P t := by
  cases he; exact h.onJumpIf _ _ hs

theorem Stable.exec_jno (rel : Byte)
    (h : Stable (.jno rel) P) (he : exec (.jno rel) s = .next t) (hs : P s) : P t := by
  cases he; exact h.onJumpIf _ _ hs

theorem Stable.exec_jb (rel : Byte)
    (h : Stable (.jb rel) P) (he : exec (.jb rel) s = .next t) (hs : P s) : P t := by
  cases he; exact h.onJumpIf _ _ hs

theorem Stable.exec_jnb (rel : Byte)
    (h : Stable (.jnb rel) P) (he : exec (.jnb rel) s = .next t) (hs : P s) : P t := by
  cases he; exact h.onJumpIf _ _ hs

theorem Stable.exec_jz (rel : Byte)
    (h : Stable (.jz rel) P) (he : exec (.jz rel) s = .next t) (hs : P s) : P t := by
  cases he; exact h.onJumpIf _ _ hs

theorem Stable.exec_jnz (rel : Byte)
    (h : Stable (.jnz rel) P) (he : exec (.jnz rel) s = .next t) (hs : P s) : P t := by
  cases he; exact h.onJumpIf _ _ hs

theorem Stable.exec_jbe (rel : Byte)
    (h : Stable (.jbe rel) P) (he : exec (.jbe rel) s = .next t) (hs : P s) : P t := by
  cases he; exact h.onJumpIf _ _ hs

theorem Stable.exec_ja (rel : Byte)
    (h : Stable (.ja rel) P) (he : exec (.ja rel) s = .next t) (hs : P s) : P t := by
  cases he; exact h.onJumpIf _ _ hs

theorem Stable.exec_js (rel : Byte)
    (h : Stable (.js rel) P) (he : exec (.js rel) s = .next t) (hs : P s) : P t := by
  cases he; exact h.onJumpIf _ _ hs

theorem Stable.exec_jns (rel : Byte)
    (h : Stable (.jns rel) P) (he : exec (.jns rel) s = .next t) (hs : P s) : P t := by
  cases he; exact h.onJumpIf _ _ hs

theorem Stable.exec_jp (rel : Byte)
    (h : Stable (.jp rel) P) (he : exec (.jp rel) s = .next t) (hs : P s) : P t := by
  cases he; exact h.onJumpIf _ _ hs

theorem Stable.exec_jnp (rel : Byte)
    (h : Stable (.jnp rel) P) (he : exec (.jnp rel) s = .next t) (hs : P s) : P t := by
  cases he; exact h.onJumpIf _ _ hs

theorem Stable.exec_jl (rel : Byte)
    (h : Stable (.jl rel) P) (he : exec (.jl rel) s = .next t) (hs : P s) : P t := by
  cases he; exact h.onJumpIf _ _ hs

theorem Stable.exec_jge (rel : Byte)
    (h : Stable (.jge rel) P) (he : exec (.jge rel) s = .next t) (hs : P s) : P t := by
  cases he; exact h.onJumpIf _ _ hs

theorem Stable.exec_jle (rel : Byte)
    (h : Stable (.jle rel) P) (he : exec (.jle rel) s = .next t) (hs : P s) : P t := by
  cases he; exact h.onJumpIf _ _ hs

theorem Stable.exec_jg (rel : Byte)
    (h : Stable (.jg rel) P) (he : exec (.jg rel) s = .next t) (hs : P s) : P t := by
  cases he; exact h.onJumpIf _ _ hs

theorem Stable.exec_loop (rel : Byte)
    (h : Stable (.loop rel) P) (he : exec (.loop rel) s = .next t) (hs : P s) : P t := by
  cases he; exact h.onJumpIf _ _ (h.onSetReg16 _ _ hs)

theorem Stable.exec_loopz (rel : Byte)
    (h : Stable (.loopz rel) P) (he : exec (.loopz rel) s = .next t) (hs : P s) : P t := by
  cases he; exact h.onJumpIf _ _ (h.onSetReg16 _ _ hs)

theorem Stable.exec_loopnz (rel : Byte)
    (h : Stable (.loopnz rel) P) (he : exec (.loopnz rel) s = .next t) (hs : P s) : P t := by
  cases he; exact h.onJumpIf _ _ (h.onSetReg16 _ _ hs)

theorem Stable.exec_jcxz (rel : Byte)
    (h : Stable (.jcxz rel) P) (he : exec (.jcxz rel) s = .next t) (hs : P s) : P t := by
  cases he; exact h.onJumpIf _ _ hs

theorem Stable.exec_int (n : Byte)
    (h : Stable (.int n) P) (he : exec (.int n) s = .next t) (hs : P s) : P t := by
  exact h.onInterrupt rfl he hs

theorem Stable.exec_int3
    (h : Stable (.int3) P) (he : exec (.int3) s = .next t) (hs : P s) : P t := by
  exact h.onInterrupt (n := 3) (ret := s.ip) rfl he hs

theorem Stable.exec_into
    (h : Stable (.into) P) (he : exec (.into) s = .next t) (hs : P s) : P t := by
  by_cases ho : flag .of s = true
  · exact h.onInterrupt rfl ((if_pos ho).symm.trans he) hs
  · cases (if_neg ho).symm.trans he
    exact hs

theorem Stable.exec_iret
    (h : Stable (.iret) P) (he : exec (.iret) s = .next t) (hs : P s) : P t := by
  cases he; exact h.flags _ _ (.inl rfl) (.inl rfl) (.inl rfl) (h.onPop16 (h.sreg _ _ _ (fun _ => rfl) (h.onPop16
    (h.ip _ _ (h.onPop16 hs)))))

theorem Stable.exec_clc
    (h : Stable (.clc) P) (he : exec (.clc) s = .next t) (hs : P s) : P t := by
  cases he; exact h.onSetFlag _ _ (by decide) hs

theorem Stable.exec_stc
    (h : Stable (.stc) P) (he : exec (.stc) s = .next t) (hs : P s) : P t := by
  cases he; exact h.onSetFlag _ _ (by decide) hs

theorem Stable.exec_cmc
    (h : Stable (.cmc) P) (he : exec (.cmc) s = .next t) (hs : P s) : P t := by
  cases he; exact h.onSetFlag _ _ (by decide) hs

theorem Stable.exec_cld
    (h : Stable (.cld) P) (he : exec (.cld) s = .next t) (hs : P s) : P t := by
  cases he; exact h.flags _ _ (.inr rfl) (.inr rfl) (.inl rfl) hs

theorem Stable.exec_std
    (h : Stable (.std) P) (he : exec (.std) s = .next t) (hs : P s) : P t := by
  cases he; exact h.flags _ _ (.inr rfl) (.inr rfl) (.inl rfl) hs

theorem Stable.exec_cli
    (h : Stable (.cli) P) (he : exec (.cli) s = .next t) (hs : P s) : P t := by
  cases he; exact h.flags _ _ (.inr rfl) (.inl rfl) (.inr rfl) hs

theorem Stable.exec_sti
    (h : Stable (.sti) P) (he : exec (.sti) s = .next t) (hs : P s) : P t := by
  cases he; exact h.flags _ _ (.inr rfl) (.inl rfl) (.inr rfl) hs

theorem Stable.exec_hlt
    (h : Stable (.hlt) P) (he : exec (.hlt) s = .next t) (hs : P s) : P t := by
  cases he; exact h.run _ _ rfl hs

theorem Stable.exec_wait
    (_ : Stable (.wait) P) (he : exec (.wait) s = .next t) (hs : P s) : P t := by
  cases he; exact hs

theorem Stable.exec_esc (x : BitVec 3) (reg : BitVec 3) (rm : RM16)
    (_ : Stable (.esc x reg rm) P) (he : exec (.esc x reg rm) s = .next t) (hs : P s) : P t := by
  cases he; exact hs

theorem Stable.exec_pusha
    (h : Stable (.pusha) P) (he : exec (.pusha) s = .next t) (hs : P s) : P t := by
  refine Eq.subst (motive := P) (Host.Outcome.next.inj he) ?_
  exact h.onPushRegValue .di (h.onPushRegValue .si (h.onPushRegValue .bp (h.onPush16 _ (h.onPushRegValue .bx
    (h.onPushRegValue .dx (h.onPushRegValue .cx (h.onPushRegValue .ax hs)))))))

theorem Stable.exec_popa
    (h : Stable (.popa) P) (he : exec (.popa) s = .next t) (hs : P s) : P t := by
  refine Eq.subst (motive := P) (Host.Outcome.next.inj he) ?_
  exact h.onPop16Reg _ (h.onPop16Reg _ (h.onPop16Reg _ (h.onPop16Reg _ (h.onPop16 (h.onPop16Reg _ (h.onPop16Reg _
    (h.onPop16Reg _ hs)))))))

theorem Stable.exec_bound (g : Reg16) (rm : RM16)
    (h : Stable (.bound g rm) P) (he : exec (.bound g rm) s = .next t) (hs : P s) : P t := by
  cases rm with
  | mem m =>
    have hr := h.onReadFar (ea m s) hs
    by_cases hd : (reg16 g (readFar (ea m s) s).2.2).toInt < (readFar (ea m s) s).1.toInt ∨
        (readFar (ea m s) s).2.1.toInt < (reg16 g (readFar (ea m s) s).2.2).toInt
    · exact h.onInterrupt rfl ((if_pos hd).symm.trans he) hr
    · cases (if_neg hd).symm.trans he
      exact hr
  | reg r => cases he; exact h.run _ _ rfl hs

theorem Stable.exec_pushIw (i : Word)
    (h : Stable (.pushIw i) P) (he : exec (.pushIw i) s = .next t) (hs : P s) : P t := by
  cases he; exact h.onPush16 _ hs

theorem Stable.exec_pushIbs (i : Byte)
    (h : Stable (.pushIbs i) P) (he : exec (.pushIbs i) s = .next t) (hs : P s) : P t := by
  cases he; exact h.onPush16 _ hs

theorem Stable.exec_imulImm (g : Reg16) (rm : RM16) (k : ImulImm)
    (h : Stable (.imulImm g rm k) P) (he : exec (.imulImm g rm k) s = .next t) (hs : P s) : P t := by
  cases he; exact h.onUndefine _ (by decide) (h.onSetFlag _ _ (by decide) (h.onSetFlag _ _ (by decide) (h.onSetReg16 _ _
    (h.onReadRM16 rm hs))))

theorem Stable.exec_insb
    (h : Stable (.insb) P) (he : exec (.insb) s = .next t) (hs : P s) : P t := by
  cases he; exact h.onRepeated _ (fun _ hs => h.onAdvanceDI _ (h.write8 _ _ _ (h.portRead8 _ _ hs))) hs

theorem Stable.exec_insw
    (h : Stable (.insw) P) (he : exec (.insw) s = .next t) (hs : P s) : P t := by
  cases he; exact h.onRepeated _ (fun _ hs => h.onAdvanceDI _ (h.onWrite16 _ _ (h.onPortRead16 _ hs))) hs

theorem Stable.exec_outsb
    (h : Stable (.outsb) P) (he : exec (.outsb) s = .next t) (hs : P s) : P t := by
  cases he; exact h.onRepeated _ (fun _ hs => h.onAdvanceSI _ (h.portWrite8 _ _ _ (h.touch8 _ _ hs))) hs

theorem Stable.exec_outsw
    (h : Stable (.outsw) P) (he : exec (.outsw) s = .next t) (hs : P s) : P t := by
  cases he; exact h.onRepeated _ (fun _ hs => h.onAdvanceSI _ (h.onPortWrite16 _ _ (h.onRead16 _ hs))) hs

theorem Stable.exec_enter (size : Word) (level : Byte)
    (h : Stable (.enter size level) P) (he : exec (.enter size level) s = .next t) (hs : P s) : P t := by
  cases he
  refine h.onSetReg16 _ _ (h.onSetReg16 _ _ ?_)
  split
  · exact h.onPush16 _ hs
  · exact h.onPush16 _ (h.onEnterCopy _ (h.onPush16 _ hs))

theorem Stable.exec_leave
    (h : Stable (.leave) P) (he : exec (.leave) s = .next t) (hs : P s) : P t := by
  cases he; exact h.onPop16Reg _ (h.onSetReg16 _ _ hs)

theorem Stable.exec_undefByte (op : Byte)
    (h : Stable (.undefByte op) P) (he : exec (.undefByte op) s = .next t) (hs : P s) : P t := by
  cases he; exact h.run _ _ rfl hs

theorem Stable.exec_undefSlot (op : Byte) (reg : BitVec 3) (rm : RM16)
    (h : Stable (.undefSlot op reg rm) P) (he : exec (.undefSlot op reg rm) s = .next t) (hs : P s) : P t := by
  cases he; exact h.run _ _ rfl hs

/-- A stable property goes from a state to the state an instruction answers. `i` is one the decoder can
answer, so that MOV and POP to a segment register never name CS. -/
theorem exec_stable {ext186 : Bool} (h : Stable i P) (hw : i.wf ext186 = true) (he : exec i s = .next t)
    (hs : P s) : P t := by
  cases i with
  | prefixES => exact h.exec_prefixES he hs
  | prefixCS => exact h.exec_prefixCS he hs
  | prefixSS => exact h.exec_prefixSS he hs
  | prefixDS => exact h.exec_prefixDS he hs
  | lock => exact h.exec_lock he hs
  | repne => exact h.exec_repne he hs
  | rep => exact h.exec_rep he hs
  | mov f => exact h.exec_mov f he hs
  | movEImm f => exact h.exec_movEImm f he hs
  | movRegImm f => exact h.exec_movRegImm f he hs
  | movMoffs f => exact h.exec_movMoffs f he hs
  | movFromSreg rm sr => exact h.exec_movFromSreg rm sr he hs
  | movToSreg sr rm => exact h.exec_movToSreg sr rm hw he hs
  | movCS rm => exact h.exec_movCS rm he hs
  | reservedSreg m k rm => exact h.exec_reservedSreg m k rm he hs
  | pushReg r => exact h.exec_pushReg r he hs
  | popReg r => exact h.exec_popReg r he hs
  | pushSreg sr => exact h.exec_pushSreg sr he hs
  | popSreg sr => exact h.exec_popSreg sr hw he hs
  | pushE rm => exact h.exec_pushE rm he hs
  | popE rm => exact h.exec_popE rm he hs
  | xchg f => exact h.exec_xchg f he hs
  | xchgAX r => exact h.exec_xchgAX r he hs
  | nop => exact h.exec_nop he hs
  | lea g rm => exact h.exec_lea g rm he hs
  | lds g rm => exact h.exec_lds g rm he hs
  | les g rm => exact h.exec_les g rm he hs
  | xlat => exact h.exec_xlat he hs
  | inImm a port => exact h.exec_inImm a port he hs
  | inDX a => exact h.exec_inDX a he hs
  | outImm port a => exact h.exec_outImm port a he hs
  | outDX a => exact h.exec_outDX a he hs
  | lahf => exact h.exec_lahf he hs
  | sahf => exact h.exec_sahf he hs
  | pushf => exact h.exec_pushf he hs
  | popf => exact h.exec_popf he hs
  | cbw => exact h.exec_cbw he hs
  | cwd => exact h.exec_cwd he hs
  | add f => exact h.exec_add f he hs
  | adc f => exact h.exec_adc f he hs
  | sub f => exact h.exec_sub f he hs
  | sbb f => exact h.exec_sbb f he hs
  | cmp f => exact h.exec_cmp f he hs
  | incReg r => exact h.exec_incReg r he hs
  | incE e => exact h.exec_incE e he hs
  | decReg r => exact h.exec_decReg r he hs
  | decE e => exact h.exec_decE e he hs
  | neg e => exact h.exec_neg e he hs
  | mul e => exact h.exec_mul e he hs
  | imul e => exact h.exec_imul e he hs
  | div e => exact h.exec_div e he hs
  | idiv e => exact h.exec_idiv e he hs
  | daa => exact h.exec_daa he hs
  | das => exact h.exec_das he hs
  | aaa => exact h.exec_aaa he hs
  | aas => exact h.exec_aas he hs
  | aam i => exact h.exec_aam i he hs
  | aad i => exact h.exec_aad i he hs
  | and f => exact h.exec_and f he hs
  | or f => exact h.exec_or f he hs
  | xor f => exact h.exec_xor f he hs
  | test f => exact h.exec_test f he hs
  | not e => exact h.exec_not e he hs
  | rol e c => exact h.exec_rol e c he hs
  | ror e c => exact h.exec_ror e c he hs
  | rcl e c => exact h.exec_rcl e c he hs
  | rcr e c => exact h.exec_rcr e c he hs
  | shl e c => exact h.exec_shl e c he hs
  | shr e c => exact h.exec_shr e c he hs
  | sar e c => exact h.exec_sar e c he hs
  | movsb => exact h.exec_movsb he hs
  | movsw => exact h.exec_movsw he hs
  | cmpsb => exact h.exec_cmpsb he hs
  | cmpsw => exact h.exec_cmpsw he hs
  | scasb => exact h.exec_scasb he hs
  | scasw => exact h.exec_scasw he hs
  | lodsb => exact h.exec_lodsb he hs
  | lodsw => exact h.exec_lodsw he hs
  | stosb => exact h.exec_stosb he hs
  | stosw => exact h.exec_stosw he hs
  | jmpShort rel => exact h.exec_jmpShort rel he hs
  | jmpNear rel => exact h.exec_jmpNear rel he hs
  | jmpFar off seg => exact h.exec_jmpFar off seg he hs
  | jmpE rm => exact h.exec_jmpE rm he hs
  | jmpM rm => exact h.exec_jmpM rm he hs
  | callNear rel => exact h.exec_callNear rel he hs
  | callFar off seg => exact h.exec_callFar off seg he hs
  | callE rm => exact h.exec_callE rm he hs
  | callM rm => exact h.exec_callM rm he hs
  | ret => exact h.exec_ret he hs
  | retImm n => exact h.exec_retImm n he hs
  | retf => exact h.exec_retf he hs
  | retfImm n => exact h.exec_retfImm n he hs
  | jo rel => exact h.exec_jo rel he hs
  | jno rel => exact h.exec_jno rel he hs
  | jb rel => exact h.exec_jb rel he hs
  | jnb rel => exact h.exec_jnb rel he hs
  | jz rel => exact h.exec_jz rel he hs
  | jnz rel => exact h.exec_jnz rel he hs
  | jbe rel => exact h.exec_jbe rel he hs
  | ja rel => exact h.exec_ja rel he hs
  | js rel => exact h.exec_js rel he hs
  | jns rel => exact h.exec_jns rel he hs
  | jp rel => exact h.exec_jp rel he hs
  | jnp rel => exact h.exec_jnp rel he hs
  | jl rel => exact h.exec_jl rel he hs
  | jge rel => exact h.exec_jge rel he hs
  | jle rel => exact h.exec_jle rel he hs
  | jg rel => exact h.exec_jg rel he hs
  | loop rel => exact h.exec_loop rel he hs
  | loopz rel => exact h.exec_loopz rel he hs
  | loopnz rel => exact h.exec_loopnz rel he hs
  | jcxz rel => exact h.exec_jcxz rel he hs
  | int n => exact h.exec_int n he hs
  | int3 => exact h.exec_int3 he hs
  | into => exact h.exec_into he hs
  | iret => exact h.exec_iret he hs
  | clc => exact h.exec_clc he hs
  | stc => exact h.exec_stc he hs
  | cmc => exact h.exec_cmc he hs
  | cld => exact h.exec_cld he hs
  | std => exact h.exec_std he hs
  | cli => exact h.exec_cli he hs
  | sti => exact h.exec_sti he hs
  | hlt => exact h.exec_hlt he hs
  | wait => exact h.exec_wait he hs
  | esc x reg rm => exact h.exec_esc x reg rm he hs
  | pusha => exact h.exec_pusha he hs
  | popa => exact h.exec_popa he hs
  | bound g rm => exact h.exec_bound g rm he hs
  | pushIw i => exact h.exec_pushIw i he hs
  | pushIbs i => exact h.exec_pushIbs i he hs
  | imulImm g rm k => exact h.exec_imulImm g rm k he hs
  | insb => exact h.exec_insb he hs
  | insw => exact h.exec_insw he hs
  | outsb => exact h.exec_outsb he hs
  | outsw => exact h.exec_outsw he hs
  | enter size level => exact h.exec_enter size level he hs
  | leave => exact h.exec_leave he hs
  | undefByte op => exact h.exec_undefByte op he hs
  | undefSlot op reg rm => exact h.exec_undefSlot op reg rm he hs

end Sys2Proof.Machine
end

