-- ==== Sys2Proof/Laws/HostLoop.lean ====
section
/-! SUPPORT. What a step does, case by case: the end of the run, a host event that is due or waits, a slot of the batch
under way, its boundary. -/

namespace Sys2Proof.Machine

variable {s : State}

/-- Whether the run goes on. -/
theorem step_live (h : s.run = .running ∨ s.run = .halted) : step s = hostStep s := by
  rcases h with h | h <;> simp [step, h]

theorem hostStep_nil (h : s.events = []) : hostStep s = advance s := by simp [hostStep, h]

theorem hostStep_due {e : HostEvent} {rest : List HostEvent} (h : s.events = e :: rest) (hd : isDue e s = true) :
    hostStep s = applyEvent e (s.setEvents rest) := by simp [hostStep, h, hd]

theorem hostStep_waits {e : HostEvent} {rest : List HostEvent} (h : s.events = e :: rest) (hd : isDue e s = false) :
    hostStep s = advance s := by simp [hostStep, h, hd]

/-- The slot that comes next, k slots being left after it. -/
theorem advance_slot {k : Nat} (h : s.batch = some (k + 1) ∨ s.batch = none ∧ k = s.params.moreSlots) :
    advance s = batchSlot k s := by
  rcases h with h | ⟨h, rfl⟩ <;> simp [advance, h]

theorem advance_boundary (h : s.batch = some 0) : advance s = boundary (s.setBatch none) := by simp [advance, h]

/-- The call of step(n) is the batch with all its slots to come. -/
theorem batchSlot_eq_advance (k : Nat) (s : State) : batchSlot k s = advance (s.setBatch (some (k + 1))) := by
  rw [advance_slot (.inl rfl)]
  cases h : s.run <;> simp [batchSlot, h]

theorem batchSlot_halted (k : Nat) (h : s.run = .halted) : batchSlot k s = .next (s.setBatch (some k)) := by
  simp [batchSlot, h]

/-- A slot of a running machine: its instruction, if the prefix loop comes to one. -/
theorem batchSlot_running {k : Nat} {a : Answer} (h : s.run = .running)
    (hp : prefixLoop (maxPrefixes + 1) (beginInstr (s.setBatch (some k))) = some a) :
    batchSlot k s = finishInstr (flag .tf s) a := by
  have hc : instrCycle (s.setBatch (some k)) = some (finishInstr (flag .tf s) a) := by
    rw [instrCycle, hp]; rfl
  simp [batchSlot, h, hc]

/-- The hang: the slot is still to come. -/
theorem batchSlot_hangs {k : Nat} (h : s.run = .running)
    (hp : prefixLoop (maxPrefixes + 1) (beginInstr (s.setBatch (some k))) = none) :
    batchSlot k s = .next (s.setBatch (some (k + 1))) := by
  have hc : instrCycle (s.setBatch (some k)) = none := by rw [instrCycle, hp]; rfl
  simp [batchSlot, h, hc]

/-- The prefix loop at an instruction that is no prefix, and at a prefix. -/
theorem prefixLoop_instr (n : Nat) {i : Instr} {t : State} (hf : fetch s = .ok (i, t)) (hp : i.isPrefix = false) :
    prefixLoop (n + 1) s = some (exec i t) := by simp [prefixLoop, hf, hp]

theorem prefixLoop_prefix (n : Nat) {i : Instr} {t u : State} (hf : fetch s = .ok (i, t)) (hp : i.isPrefix = true)
    (he : exec i t = .next u) : prefixLoop (n + 1) s = prefixLoop n u := by simp [prefixLoop, hf, hp, he]

/-- The start of a slot's instruction looks at the bytes at CS:IP of the state before it. -/
theorem codeBytes_beginInstr (b : Option Nat) (s : State) : codeBytes (beginInstr (s.setBatch b)) = codeBytes s := by
  simp [codeBytes, beginInstr, fetchAddr]

/-! ## Ejecting drives (R873) -/

theorem eject_at (d n : Byte) (s : State) :
    (eject d s).disk.at n = if n = d then { s.disk.at d with inserted := false } else s.disk.at n := by
  simp [eject, Disk.at, Disk.setAt, Table.get_set, BitVec.toNat_inj]

end Sys2Proof.Machine
end

