-- ==== Sys2Proof/Laws/Invariant.lean ====
section
/-! SUPPORT. Every operation on memory and on the tables keeps their canonical form, and so every primitive update
of an instruction keeps `State.DataInv`. -/

namespace Sys2Proof.Machine

/-! ## Memory -/

/-- A byte stored in RAM keeps the canonical form. -/
theorem ramSet_wf {m : Memory} (h : Memory.wf m = true) (a : Linear) (v : Byte) : Memory.wf (ramSet m a v) = true :=
  Table.set_wf v a.isLt h

theorem touch8_ram_wf {s : State} (h : Memory.wf s.ram = true) (a : Linear) : Memory.wf (touch8 a s).ram = true := by
  simpa using h

theorem write8_wf {s : State} (h : Memory.wf s.ram = true) (a : Linear) (v : Byte) :
    Memory.wf (write8 a v s).ram = true := by
  unfold write8
  split
  · exact h
  · split
    · exact h
    · exact ramSet_wf h a v

theorem write16_wf {s : State} (h : Memory.wf s.ram = true) (a : Linear) (v : Word) :
    Memory.wf (write16 a v s).ram = true := write8_wf (write8_wf h _ _) _ _

theorem push16_wf {s : State} (h : Memory.wf s.ram = true) (v : Word) : Memory.wf (push16 v s).ram = true :=
  write16_wf (s := setReg16 .sp (reg16 .sp s - 2) s) h _ _

theorem pop16_ram_wf {s : State} (h : Memory.wf s.ram = true) : Memory.wf (pop16 s).2.ram = true := by
  rw [pop16_eq]; simpa using h

theorem writeBytes_wf {s : State} (h : Memory.wf s.ram = true) (bytes : List Byte) (a : Linear) :
    Memory.wf (writeBytes bytes a s).ram = true := by
  induction bytes generalizing s a with
  | nil => exact h
  | cons b rest ih => exact ih (write8_wf h a b) (a + 1)

theorem readBytes_ram_wf {s : State} (h : Memory.wf s.ram = true) (n : Nat) (a : Linear) :
    Memory.wf (readBytes n a s).2.ram = true := by
  induction n generalizing s a with
  | zero => exact h
  | succ n ih => exact ih (touch8_ram_wf h a) (a + 1)

theorem romCopy_wf {m : Memory} (h : Memory.wf m = true) (bytes : List Byte) (a : Linear) :
    Memory.wf (romCopy bytes a m) = true := by
  induction bytes generalizing m a with
  | nil => exact h
  | cons b rest ih => exact ih (ramSet_wf h a b) (a + 1)

theorem romProtect_wf {l : List Nat} (h : sortedWf (2 ^ 20) l = true) (n : Nat) (a : Linear) :
    sortedWf (2 ^ 20) (romProtect n a l) = true := by
  induction n generalizing l a with
  | zero => exact h
  | succ n ih => exact ih (sortedInsert_wf a.isLt h) (a + 1)

theorem placeByte_wf {s : State} (h : Memory.wf s.ram = true) (a : Linear) (v : Byte) :
    Memory.wf (placeByte a v s).ram = true := by
  unfold placeByte
  split
  · exact h
  · exact ramSet_wf h a v

theorem placeBytes_wf {s : State} (h : Memory.wf s.ram = true) (bytes : List Byte) (k : Nat) :
    Memory.wf (placeBytes bytes k s).ram = true := by
  induction bytes generalizing s k with
  | nil => exact h
  | cons b rest ih => exact ih (placeByte_wf h _ b) (k + 1)

theorem drawTable_wf {d : Byte} {bound : Nat} {t : Table Byte} (h : t.wf d bound = true) (keep : List Nat) (lo k n : Nat)
    (hn : lo + n ≤ bound) : (drawTable d keep lo k n t).wf d bound = true := by
  induction n with
  | zero => exact h
  | succ n ih =>
    simp only [drawTable]
    split
    · exact ih (by omega)
    · exact Table.set_wf _ (by omega) (ih (by omega))

/-- Power-on memory has the form. -/
theorem reset_memory_wf : Memory.wf State.reset.ram = true := rfl

/-! ## Planes and adapter -/

theorem planeStore_wf {p : Table Byte} (h : p.wf Config.unwrittenPlane 0x10000 = true) {a : Nat} (ha : a < 0x10000)
    (e : Bool) (v : Byte) : (planeStore e a v p).wf Config.unwrittenPlane 0x10000 = true := by
  unfold planeStore
  split
  · exact Table.set_wf v ha h
  · exact h

theorem Planes.wf_iff (p : Planes) : p.wf = true ↔
    (p.p0.wf Config.unwrittenPlane 0x10000 = true ∧ p.p1.wf Config.unwrittenPlane 0x10000 = true) ∧
      p.p2.wf Config.unwrittenPlane 0x10000 = true ∧ p.p3.wf Config.unwrittenPlane 0x10000 = true := by
  simp [Planes.wf, and_assoc]

theorem Planes.store_wf {p : Planes} (h : p.wf = true) (pwe : BitVec 4) {a : Nat} (ha : a < 0x10000) (u : BitVec 32) :
    (p.store pwe a u).wf = true := by
  rw [Planes.wf_iff] at h ⊢
  exact ⟨⟨planeStore_wf h.1.1 ha _ _, planeStore_wf h.1.2 ha _ _⟩, planeStore_wf h.2.1 ha _ _, planeStore_wf h.2.2 ha _ _⟩

theorem drawPlanes_wf {p : Planes} (h : p.wf = true) (k : Nat) : (drawPlanes k p).wf = true := by
  rw [Planes.wf_iff] at h ⊢
  exact ⟨⟨drawTable_wf h.1.1 _ _ _ _ (by omega), drawTable_wf h.1.2 _ _ _ _ (by omega)⟩,
    drawTable_wf h.2.1 _ _ _ _ (by omega), drawTable_wf h.2.2 _ _ _ _ (by omega)⟩

/-- The parts of the adapter's form. -/
structure Video.Parts (v : Video) : Prop where
  mode : v.mode.consistent = true
  cursor : v.mode.cursor.wf (0#8, 0#8) 16 = true
  crtc : v.crtc.wf 0#8 32 = true
  seq : v.seq.wf 0#8 256 = true
  gc : v.gc.wf 0#8 256 = true
  dac : v.dac.entries.wf 0#24 256 = true
  palette : v.attr.palette.wf 0#24 16 = true
  attr : v.attr.attr.wf 0#8 32 = true
  planes : v.planes.wf = true

theorem Video.wf_iff (v : Video) : v.wf = true ↔ v.Parts := by
  constructor
  · intro h
    simp only [Video.wf, Bool.and_eq_true] at h
    exact ⟨h.1.1.1.1.1.1.1.1, h.1.1.1.1.1.1.1.2, h.1.1.1.1.1.1.2, h.1.1.1.1.1.2, h.1.1.1.1.2, h.1.1.1.2, h.1.1.2,
      h.1.2, h.2⟩
  · intro h
    simp [Video.wf, h.mode, h.cursor, h.crtc, h.seq, h.gc, h.dac, h.palette, h.attr, h.planes]

theorem Video.planarStore_wf {v : Video} (h : v.wf = true) {a : Nat} (ha : a < 0x10000) (b : Byte) :
    (v.planarStore a b).wf = true := by
  rw [Video.wf_iff] at h ⊢
  exact { h with planes := Planes.store_wf h.planes _ ha _ }

theorem AttrCtl.write_palette {a : AttrCtl} (h : a.palette.wf 0#24 16 = true) (v : Byte) :
    (a.write v).palette.wf 0#24 16 = true := by
  unfold AttrCtl.write
  split
  · exact h
  · split
    · exact Table.set_wf _ ‹_› h
    · exact h

theorem AttrCtl.write_attr {a : AttrCtl} (h : a.attr.wf 0#8 32 = true) (v : Byte) :
    (a.write v).attr.wf 0#8 32 = true := by
  unfold AttrCtl.write
  split
  · exact h
  · split
    · exact h
    · exact Table.set_wf _ a.index.isLt h

theorem Video.portWrite_wf {d : Video} (h : d.wf = true) (port : Port) (v : Byte) : (d.portWrite port v).wf = true := by
  rw [Video.wf_iff] at h ⊢
  cases port
  case crtcData => exact { h with crtc := Table.set_wf v (BitVec.isLt _) h.crtc }
  case seqData => exact { h with seq := Table.set_wf v d.seqIndex.isLt h.seq }
  case gcData => exact { h with gc := Table.set_wf v d.gcIndex.isLt h.gc }
  case dacData => exact { h with dac := Table.set_wf _ d.dac.writeIndex.isLt h.dac }
  case attr => exact { h with palette := AttrCtl.write_palette h.palette v, attr := AttrCtl.write_attr h.attr v }
  all_goals exact { h with }

theorem modeRow_consistent {m : BitVec 7} {row : ModeRow} (h : modeRow m = some row) (noblank : Bool) (f : Family)
    (old : VideoMode) : (VideoMode.set m noblank row f old).consistent = true := by
  unfold VideoMode.consistent VideoMode.set
  simp only [h]
  cases hp : row.pixels <;> simp

/-! ## Disks -/

theorem Disk.wf_iff (d : Disk) : d.wf = true ↔
    d.drive.wf Drive.empty 256 = true ∧ (∀ e ∈ d.drive, e.2.wf = true) ∧ d.lastAh.wf 0#8 256 = true ∧
      d.lastCf.wf false 256 = true := by
  simp [Disk.wf, and_assoc]

theorem Disk.at_wf {d : Disk} (h : d.wf = true) (n : Byte) : (d.at n).wf = true := by
  rw [Disk.wf_iff] at h
  have get_wf : ∀ t : Table Drive, (∀ e ∈ t, e.2.wf = true) → (t.get Drive.empty n.toNat).wf = true := by
    intro t
    induction t with
    | nil => exact fun _ => rfl
    | cons e t ih =>
      intro hall
      obtain ⟨j, v⟩ := e
      rw [Table.get_cons]
      split
      · exact hall _ List.mem_cons_self
      · exact ih fun e he => hall e (List.mem_cons_of_mem _ he)
  exact get_wf _ h.2.1

theorem Disk.setAt_wf {d : Disk} (h : d.wf = true) (n : Byte) {v : Drive} (hv : v.wf = true) : (d.setAt n v).wf = true := by
  rw [Disk.wf_iff] at h ⊢
  refine ⟨Table.set_wf v n.isLt h.1, fun e he => ?_, h.2.2⟩
  unfold Disk.setAt Table.set at he
  dsimp only at he
  split at he
  · exact h.2.1 e (List.mem_filter.1 he).1
  · rcases Table.mem_put he with rfl | he
    · exact hv
    · exact h.2.1 e he

theorem backingWrite_wf {size : Nat} {t : Table Byte} (h : t.wf 0#8 size = true) (bytes : List Byte) (o : Nat)
    (ho : o + bytes.length ≤ size) : (backingWrite bytes o t).wf 0#8 size = true := by
  induction bytes generalizing t o with
  | nil => exact h
  | cons b rest ih =>
    simp only [List.length_cons] at ho
    exact ih (Table.set_wf b (by omega) h) (o + 1) (by omega)

/-! ## Every primitive update -/

namespace State.DataInv

variable {s t : State}

theorem congr (h : s.DataInv) (hr : t.ram = s.ram) (ho : t.readonly = s.readonly) (hs : t.shadow = s.shadow)
    (hd : t.disk = s.disk) (hv : t.video.wf = s.video.wf) : t.DataInv :=
  ⟨hr ▸ h.ram, ho ▸ h.readonly, hs ▸ h.shadow, hd ▸ h.disk, hv ▸ h.video⟩

theorem touch8 (h : s.DataInv) (a : Linear) : (touch8 a s).DataInv :=
  h.congr (by simp) (by simp) (by simp) (by simp) (by unfold Machine.touch8; split <;> rfl)

theorem write8 (h : s.DataInv) (a : Linear) (v : Byte) : (write8 a v s).DataInv where
  ram := write8_wf h.ram a v
  readonly := by simpa using h.readonly
  shadow := by simpa using h.shadow
  disk := by simpa using h.disk
  video := by
    unfold Machine.write8
    split
    · exact h.video
    · split
      · exact Video.planarStore_wf h.video (apertureOffset_lt a) v
      · exact h.video

theorem portRead8 (h : s.DataInv) (p : Word) : (portRead8 p s).2.DataInv := by
  unfold Machine.portRead8
  split <;> (try split) <;> exact ⟨h.ram, h.readonly, h.shadow, h.disk, h.video⟩

theorem portWrite8 (h : s.DataInv) (p : Word) (v : Byte) : (portWrite8 p v s).DataInv := by
  have hshadow : (shadowSet p v s).DataInv := ⟨h.ram, h.readonly, Table.set_wf v p.isLt h.shadow, h.disk, h.video⟩
  unfold Machine.portWrite8
  cases portAt p
  case status | unnamedVideo | other => exact hshadow
  case picCommand | picData => exact ⟨h.ram, h.readonly, h.shadow, h.disk, h.video⟩
  all_goals exact ⟨h.ram, h.readonly, h.shadow, h.disk, Video.portWrite_wf h.video _ v⟩

theorem storeSector (h : s.DataInv) (d : Byte) (o : Nat) (bytes : List Byte) (ho : o + bytes.length ≤ (s.disk.at d).size) :
    (storeSector d o bytes s).DataInv :=
  ⟨h.ram, h.readonly, h.shadow,
    Disk.setAt_wf h.disk d (backingWrite_wf (size := (s.disk.at d).size) (Disk.at_wf h.disk d) bytes o ho), h.video⟩

theorem blank (h : s.DataInv) (base : FrameBase) : (blank base s).DataInv := by
  cases base with
  | b8000 => exact ⟨drawTable_wf h.ram _ _ _ _ (by omega), h.readonly, h.shadow, h.disk, h.video⟩
  | a0000 =>
    refine ⟨h.ram, h.readonly, h.shadow, h.disk, ?_⟩
    rw [Video.wf_iff]
    exact { (Video.wf_iff _).1 h.video with planes := drawPlanes_wf ((Video.wf_iff _).1 h.video).planes _ }

theorem setMode (h : s.DataInv) {m : BitVec 7} {row : ModeRow} (hm : modeRow m = some row) (noblank : Bool) :
    (setMode m noblank row s).DataInv := by
  unfold Machine.setMode
  dsimp only
  have key : ∀ f, ((s.setDraws (s.draws + 2)).setVideo
      { s.video with mode := s.video.mode.set m noblank row f }).DataInv := by
    intro f
    refine ⟨h.ram, h.readonly, h.shadow, h.disk, ?_⟩
    rw [Video.wf_iff]
    exact { (Video.wf_iff _).1 h.video with mode := modeRow_consistent hm noblank f _, cursor := rfl }
  split
  · exact key _
  · exact (key _).blank _

/-- Every instruction's primitive updates keep the form. -/
theorem stable (i : Instr) : Stable i State.DataInv where
  regs _ _ h := h.congr rfl rfl rfl rfl rfl
  sreg _ _ _ _ h := h.congr rfl rfl rfl rfl rfl
  ip _ _ h := h.congr rfl rfl rfl rfl rfl
  flags _ _ _ _ _ h := h.congr rfl rfl rfl rfl rfl
  run _ _ _ h := h.congr rfl rfl rfl rfl rfl
  segOverride _ _ _ h := h.congr rfl rfl rfl rfl rfl
  rep _ _ _ h := h.congr rfl rfl rfl rfl rfl
  draws _ _ h := h.congr rfl rfl rfl rfl rfl
  touch8 _ a h := h.touch8 a
  write8 _ a v h := h.write8 a v
  portRead8 _ p h := h.portRead8 p
  portWrite8 _ p v h := h.portWrite8 p v
  storeSector _ d o bytes _ ho h := h.storeSector d o bytes ho
  status _ d ah cf _ h := by
    have hd := (Disk.wf_iff _).1 h.disk
    exact ⟨h.ram, h.readonly, h.shadow,
      (Disk.wf_iff _).2 ⟨hd.1, hd.2.1, Table.set_wf _ d.isLt hd.2.2.1, Table.set_wf _ d.isLt hd.2.2.2⟩, h.video⟩
  setMode _ _ noblank _ _ hm h := h.setMode hm noblank

end State.DataInv

end Sys2Proof.Machine
end

