-- ==== Sys2Proof/Tests/Slice0.lean ====
section
/-! SUPPORT. The model's own tests: ill-formed terms the check refuses, encodings written out from the spec,
single steps from the vectors of spec/95_test_vectors.md, and a witness for the hypotheses of each statement. -/

namespace Sys2Proof.Tests
open Sys2Proof Sys2Proof.Machine

/-! ## WellFormed: one ill-formed term for each check (R181, R196, R199, R560) -/

theorem test_wf_base_bp : (Instr.lea .ax (.mem (.base .bp))).wf true = false := by decide
theorem test_wf_every_rm_is_checked :
    ([.mov (.ebGb (.mem (.base .bp)) .al), .movEImm (.w (.mem (.base .bp)) 0#16), .movFromSreg (.mem (.base .bp)) .ds,
      .pushE (.mem (.base .bp)), .xchg (.b (.mem (.base .bp)) .al), .add (.word (.ewIbs (.mem (.base .bp)) 0#8)),
      .neg (.b (.mem (.base .bp))), .test (.ebIb (.mem (.base .bp)) 0#8), .rol (.w (.mem (.base .bp))) .one,
      .jmpE (.mem (.base .bp)), .esc 0#3 0#3 (.mem (.base .bp)), .imulImm .ax (.mem (.base .bp)) (.ibs 0#8),
      .undefSlot 0xFE#8 7#3 (.mem (.base .bp))] : List Instr).all (fun i => !i.wf true) = true := by decide
theorem test_wf_mov_cs : (Instr.movToSreg .cs (.reg .ax)).wf true = false := by decide
theorem test_wf_pop_cs : (Instr.popSreg .cs).wf true = false := by decide
theorem test_wf_xchg_ax_ax : (Instr.xchgAX .ax).wf true = false := by decide
theorem test_wf_ext186_off :
    ([.pusha, .popa, .bound .ax (.mem (.base .si)), .pushIw 0#16, .imulImm .ax (.reg .bx) (.iw 1#16), .pushIbs 0#8, .insb,
      .insw, .outsb, .outsw, .enter 0#16 0#8, .leave] : List Instr).all (fun i => i.wf true && !i.wf false) = true := by decide
theorem test_wf_undef_byte : (Instr.undefByte 0x90#8).wf false = false ∧ (Instr.undefByte 0x60#8).wf true = false ∧
    (Instr.undefByte 0x60#8).wf false = true := by decide
theorem test_wf_undef_slot : (Instr.undefSlot 0xFF#8 6#3 (.reg .ax)).wf true = false ∧
    (Instr.undefSlot 0xFF#8 7#3 (.reg .ax)).wf true = true := by decide

/-! ## Decode: bytes written out from R181 and R195 to R198 -/

/-- Whether the bytes decode to the instruction, all of them read. -/
def decodesTo (ext : Bool) (bytes : List Byte) (i : Instr) : Bool :=
  match decode ext bytes with
  | .ok (j, []) => i == j
  | _ => false

/-- 95_test_vectors.md 2.1, and the fields of R180: mod, reg, rm. -/
theorem test_decode_modrm :
    (decodesTo false [0x8B#8, 0b00_000_111#8] (.mov (.gwEw .ax (.mem (.base .bx)))) &&
     decodesTo false [0x8B#8, 0b00_000_110#8, 0x34#8, 0x12#8] (.mov (.gwEw .ax (.mem (.direct 0x1234#16)))) &&
     decodesTo false [0x8B#8, 0b01_000_110#8, 0xFE#8] (.mov (.gwEw .ax (.mem (.disp8 .bp 0xFE#8)))) &&
     decodesTo false [0x8B#8, 0b10_000_110#8, 0x00#8, 0x01#8] (.mov (.gwEw .ax (.mem (.disp16 .bp 0x0100#16)))) &&
     decodesTo false [0x8B#8, 0b11_000_011#8] (.mov (.gwEw .ax (.reg .bx))) &&
     decodesTo false [0xC7#8, 0x06#8, 0x34#8, 0x12#8, 0x78#8, 0x56#8] (.movEImm (.w (.mem (.direct 0x1234#16)) 0x5678#16)) &&
     decodesTo false [0x80#8, 0b01_111_110#8, 0x02#8, 0x05#8] (.cmp (.byte (.ebIb (.mem (.disp8 .bp 0x02#8)) 0x05#8))) &&
     decodesTo false [0xF6#8, 0b00_010_110#8, 0x00#8, 0x01#8] (.not (.b (.mem (.direct 0x0100#16))))) = true := by decide

theorem test_decode_data_transfer :
    (decodesTo false [0b1011_0_100#8, 0x12#8] (.movRegImm (.b .ah 0x12#8)) && decodesTo false [0xA2#8, 0x17#8, 0x00#8] (.movMoffs (.obAl 0x0017#16)) &&
     decodesTo false [0x8C#8, 0b11_001_000#8] (.movFromSreg (.reg .ax) .cs) &&
     decodesTo false [0x8E#8, 0b11_000_000#8] (.movToSreg .es (.reg .ax)) && decodesTo false [0x8E#8, 0xC8#8] (.movCS (.reg .ax)) &&
     decodesTo false [0x8C#8, 0b11_100_000#8] (.reservedSreg .fromSreg 0#2 (.reg .ax)) &&
     decodesTo false [0b01010_100#8] (.pushReg .sp) && decodesTo false [0b000_11_111#8] (.popSreg .ds) && decodesTo false [0b000_01_110#8] (.pushSreg .cs) &&
     decodesTo false [0x8F#8, 0x06#8, 0x00#8, 0x02#8] (.popE (.mem (.direct 0x0200#16))) &&
     decodesTo false [0x86#8, 0b11_000_011#8] (.xchg (.b (.reg .bl) .al)) && decodesTo false [0b10010_010#8] (.xchgAX .dx) &&
     decodesTo false [0xC5#8, 0b00_110_110#8, 0x00#8, 0x00#8] (.lds .si (.mem (.direct 0#16))) &&
     decodesTo false [0xC4#8, 0b00_111_110#8, 0x10#8, 0x00#8] (.les .di (.mem (.direct 0x0010#16))) && decodesTo false [0xE4#8, 0x21#8] (.inImm .al 0x21#8)) = true := by decide

theorem test_decode_arithmetic :
    (decodesTo false [0b00_000_100#8, 0x01#8] (.add (.byte (.alIb 1#8))) && decodesTo false [0b00_000_001#8, 0b11_011_000#8] (.add (.word (.ewGw (.reg .ax) .bx))) &&
     decodesTo false [0b00_010_100#8, 0x00#8] (.adc (.byte (.alIb 0#8))) && decodesTo false [0b00_101_100#8, 0x01#8] (.sub (.byte (.alIb 1#8))) &&
     decodesTo false [0b00_011_101#8, 0x00#8, 0x00#8] (.sbb (.word (.axIw 0#16))) && decodesTo false [0b00_111_101#8, 0x02#8, 0x00#8] (.cmp (.word (.axIw 2#16))) &&
     decodesTo false [0xFE#8, 0b11_000_000#8] (.incE (.b (.reg .al))) && decodesTo false [0b01001_000#8] (.decReg .ax) &&
     decodesTo false [0xF6#8, 0b11_011_000#8] (.neg (.b (.reg .al))) && decodesTo false [0xF6#8, 0b11_100_011#8] (.mul (.b (.reg .bl))) &&
     decodesTo false [0xF7#8, 0b11_101_011#8] (.imul (.w (.reg .bx))) && decodesTo false [0xF6#8, 0b11_110_011#8] (.div (.b (.reg .bl))) &&
     decodesTo false [0xF7#8, 0b11_111_011#8] (.idiv (.w (.reg .bx))) && decodesTo false [0xD4#8, 0x0A#8] (.aam 0x0A#8) && decodesTo false [0x2F#8] .das) = true := by decide

theorem test_decode_logic_and_shifts :
    (decodesTo false [0b00_100_100#8, 0x0F#8] (.and (.byte (.alIb 0x0F#8))) && decodesTo false [0b00_001_100#8, 0x01#8] (.or (.byte (.alIb 1#8))) &&
     decodesTo false [0b00_110_001#8, 0b11_000_000#8] (.xor (.word (.ewGw (.reg .ax) .ax))) && decodesTo false [0xA8#8, 0x01#8] (.test (.alIb 1#8)) &&
     decodesTo false [0xF6#8, 0b11_001_000#8] (.undefSlot 0xF6#8 1#3 (.reg .ax)) && decodesTo false [0xD0#8, 0b11_000_000#8] (.rol (.b (.reg .al)) .one) &&
     decodesTo false [0xD2#8, 0b11_010_000#8] (.rcl (.b (.reg .al)) .cl) && decodesTo false [0xD0#8, 0b11_011_000#8] (.rcr (.b (.reg .al)) .one) &&
     decodesTo false [0xC0#8, 0b11_111_000#8, 0x02#8] (.sar (.b (.reg .al)) (.imm 2#8)) && decodesTo false [0xD3#8, 0b11_101_000#8] (.shr (.w (.reg .ax)) .cl)) = true := by decide

theorem test_decode_control :
    (decodesTo false [0xEB#8, 0xFE#8] (.jmpShort 0xFE#8) && decodesTo false [0xE9#8, 0x00#8, 0x80#8] (.jmpNear 0x8000#16) &&
     decodesTo false [0xFF#8, 0b00_101_110#8, 0x00#8, 0x02#8] (.jmpM (.mem (.direct 0x0200#16))) && decodesTo false [0xFF#8, 0b11_010_011#8] (.callE (.reg .bx)) &&
     decodesTo false [0xFF#8, 0b11_011_000#8] (.callM (.reg .ax)) && decodesTo false [0xC2#8, 0x04#8, 0x00#8] (.retImm 4#16) && decodesTo false [0xCB#8] .retf &&
     decodesTo false [0x7F#8, 0x02#8] (.jg 2#8) && decodesTo false [0xE0#8, 0xFE#8] (.loopnz 0xFE#8) && decodesTo false [0xCF#8] .iret &&
     decodesTo false [0xAF#8] .scasw && decodesTo false [0xA6#8] .cmpsb && decodesTo false [0xDB#8, 0b11_100_011#8] (.esc 3#3 4#3 (.reg .bx)) &&
     decodesTo false [0xF4#8] .hlt && decodesTo false [0xFE#8, 0b11_010_000#8] (.undefSlot 0xFE#8 2#3 (.reg .ax)) && decodesTo false [0x0F#8] (.undefByte 0x0F#8)) = true := by decide

theorem test_decode_ext186 :
    (decodesTo true [0x60#8] .pusha && decodesTo true [0x62#8, 0x06#8, 0x10#8, 0x00#8] (.bound .ax (.mem (.direct 0x0010#16))) &&
     decodesTo true [0x68#8, 0x34#8, 0x12#8] (.pushIw 0x1234#16) && decodesTo true [0x6B#8, 0b11_000_011#8, 0x10#8] (.imulImm .ax (.reg .bx) (.ibs 0x10#8)) &&
     decodesTo true [0xC8#8, 0x04#8, 0x00#8, 0x00#8] (.enter 4#16 0#8) && decodesTo true [0x6F#8] .outsw && decodesTo false [0xC9#8] (.undefByte 0xC9#8)) = true := by decide

/-- R207: the table's first byte is the most significant; MOV AX, 1234h is B8 34 12, and NOP is 90. -/
theorem test_table_word : decodeTableWord 24 0xB83412 = some (.movRegImm (.w .ax 0x1234#16)) ∧
    decodeTableWord 8 0x90 = some .nop ∧ decodeTableWord 8 0x60 = some .pusha := by decide

/-! ## Single steps: vectors of spec/95_test_vectors.md, with its conventions -/

/-- CS = DS = ES = SS = 0, IP = 0100, SP = 0100, and the registers given. -/
def start (rs : List (Reg16 × Word) := []) : State :=
  rs.foldl (fun s r => setReg16 r.1 r.2 s)
    (setReg16 .sp 0x0100#16 ((State.reset.setSregs ⟨0#16, 0#16, 0#16, 0#16⟩).setIp 0x0100#16))

/-- Bytes put into RAM from an address on. -/
def poke (a : Linear) (bytes : List Byte) (s : State) : State := s.setRam (romCopy bytes a s.ram)

/-- The bytes at CS:IP run as one step, and the property holds of the state after it. -/
def runs (bytes : List Byte) (s : State) (p : State → Bool) : Bool :=
  match step (placeBytes bytes 0 s) with
  | .next t => p t
  | _ => false

/-- A register, and a word of memory. -/
def is (r : Reg16) (v : Word) (t : State) : Bool := reg16 r t == v
def word (a : Linear) (v : Word) (t : State) : Bool := peek16 a t == v

/-- CF PF AF ZF SF OF, as the vectors list them. -/
def six (t : State) : List Nat := [Flag.cf, .pf, .af, .zf, .sf, .of].map fun k => (flag k t).toNat

/-! ### Data transfer (DT1 to DT35) -/

theorem test_mov_reg_imm : runs [0xB4#8, 0x12#8] (start [(.ax, 0xFFFF#16)]) (fun t => is .ax 0x12FF#16 t && t.ip == 0x0102#16) = true := by decide
theorem test_mov_modrm : runs [0x8B#8, 0x07#8] (poke 0x200#20 [0xEF#8, 0xBE#8] (start [(.bx, 0x0200#16)])) (is .ax 0xBEEF#16) = true := by decide
theorem test_mov_moffs : runs [0xA2#8, 0x17#8, 0x00#8] (setSreg .ds 0x0040#16 (start [(.ax, 0x007E#16)]))
    (fun t => peek8 0x00417#20 t == 0x7E#8) = true := by decide
theorem test_mov_eimm : runs [0xC7#8, 0x06#8, 0x00#8, 0x05#8, 0x34#8, 0x12#8] start
    (fun t => peek8 0x500#20 t == 0x34#8 && peek8 0x501#20 t == 0x12#8) = true := by decide
theorem test_mov_sreg : runs [0x8E#8, 0xC0#8] (start [(.ax, 0xB800#16)]) (fun t => sreg .es t == 0xB800#16) = true := by decide
theorem test_mov_to_cs : runs [0x8E#8, 0xC8#8] start (fun t => t.run == .fatal .unmappedOpcode) = true := by decide
theorem test_push_sp : runs [0x54#8] start (fun t => is .sp 0x00FE#16 t && word 0xFE#20 0x00FE#16 t) = true := by decide
/-- R241: the FF /6 form pushes the old SP. -/
theorem test_push_sp_modrm : runs [0xFF#8, 0xF4#8] start (fun t => word 0xFE#20 0x0100#16 t) = true := by decide
theorem test_push_wraps : runs [0x50#8] (start [(.ax, 0xBEEF#16), (.sp, 0#16)])
    (fun t => is .sp 0xFFFE#16 t && peek8 0x0FFFE#20 t == 0xEF#8 && peek8 0x0FFFF#20 t == 0xBE#8) = true := by decide
theorem test_pop_sreg : runs [0x1F#8] (poke 0xFE#20 [0x00#8, 0x20#8] (start [(.sp, 0x00FE#16)]))
    (fun t => sreg .ds t == 0x2000#16 && is .sp 0x0100#16 t) = true := by decide
theorem test_pop_mem : runs [0x8F#8, 0x06#8, 0x00#8, 0x02#8] (poke 0xFE#20 [0x00#8, 0x40#8] (start [(.sp, 0x00FE#16)]))
    (fun t => word 0x200#20 0x4000#16 t && is .sp 0x0100#16 t) = true := by decide
theorem test_xchg : runs [0x86#8, 0xC3#8] (start [(.ax, 1#16), (.bx, 2#16)]) (fun t => is .ax 2#16 t && is .bx 1#16 t) = true := by decide
theorem test_lea : runs [0x8D#8, 0x46#8, 0x02#8] (start [(.bp, 0xFFFF#16)]) (is .ax 1#16) = true := by decide
theorem test_lds : runs [0xC5#8, 0x36#8, 0x00#8, 0x00#8] (poke 0#20 [0x00#8, 0x10#8, 0x00#8, 0x20#8] start)
    (fun t => is .si 0x1000#16 t && sreg .ds t == 0x2000#16) = true := by decide
theorem test_xlat_wraps : runs [0xD7#8] (poke 1#20 [0x7E#8] (start [(.bx, 0xFFFF#16), (.ax, 2#16)])) (is .ax 0x007E#16) = true := by decide
theorem test_in_imm : runs [0xE4#8, 0x21#8] (start.setPic { Pic.reset with imr := 0x5A#8 }) (is .ax 0x005A#16) = true := by decide
theorem test_out_word : runs [0xEF#8] (start [(.dx, 0x03D4#16), (.ax, 0x070E#16)])
    (fun t => t.video.crtcIndex == 0x0E#8 && t.video.crtc.get 0#8 0x0E == 0x07#8) = true := by decide
theorem test_lahf : runs [0x9F#8] start (is .ax 0x0200#16) = true := by decide
theorem test_sahf : runs [0x9E#8] (start [(.ax, 0xD500#16)]) (fun t => six t == [1, 1, 1, 1, 1, 0]) = true := by decide
theorem test_pushf : runs [0x9C#8] (setFlag .of true (setFlag .if true (setFlag .cf true start))) (word 0xFE#20 0xFA03#16) = true := by decide
theorem test_popf : runs [0x9D#8] (poke 0x100#20 [0x9D#8, 0x02#8] (start.setIp 0x0100#16))
    (fun t => six t == [1, 1, 1, 0, 1, 0] && flag .if t && !flag .tf t) = true := by decide
theorem test_cbw_cwd : (runs [0x98#8] (start [(.ax, 0x0080#16)]) (is .ax 0xFF80#16) &&
    runs [0x99#8] (start [(.ax, 0x8000#16)]) (is .dx 0xFFFF#16)) = true := by decide

/-! ### Arithmetic (AR, MD, BC) -/

theorem test_add : (runs [0x04#8, 0x01#8] (start [(.ax, 0x007F#16)]) (fun t => is .ax 0x0080#16 t && six t == [0, 0, 1, 0, 1, 1]) &&
    runs [0x83#8, 0xC0#8, 0xFF#8] (start [(.ax, 1#16)]) (fun t => is .ax 0#16 t && six t == [1, 1, 1, 1, 0, 0])) = true := by decide
theorem test_adc : runs [0x14#8, 0x00#8] (setFlag .cf true (start [(.ax, 0x00FF#16)])) (fun t => is .ax 0#16 t && six t == [1, 1, 1, 1, 0, 0]) = true := by decide
theorem test_sub : (runs [0x2C#8, 0x01#8] (start [(.ax, 0x0080#16)]) (fun t => is .ax 0x007F#16 t && six t == [0, 0, 1, 0, 0, 1]) &&
    runs [0x2C#8, 0xFF#8] (start [(.ax, 0x007F#16)]) (fun t => is .ax 0x0080#16 t && six t == [1, 0, 0, 0, 1, 1])) = true := by decide
theorem test_sbb : runs [0x1D#8, 0x00#8, 0x00#8] (setFlag .cf true start) (fun t => is .ax 0xFFFF#16 t && six t == [1, 1, 1, 0, 1, 0]) = true := by decide
theorem test_cmp : runs [0x3D#8, 0x02#8, 0x00#8] (start [(.ax, 1#16)]) (fun t => is .ax 1#16 t && six t == [1, 1, 1, 0, 1, 0]) = true := by decide
theorem test_inc_dec : (runs [0x40#8] (setFlag .cf true (start [(.ax, 0x7FFF#16)])) (fun t => is .ax 0x8000#16 t && six t == [1, 1, 1, 0, 1, 1]) &&
    runs [0x48#8] start (fun t => is .ax 0xFFFF#16 t && six t == [0, 1, 1, 0, 1, 0])) = true := by decide
theorem test_neg : runs [0xF6#8, 0xD8#8] (start [(.ax, 0x0080#16)]) (fun t => is .ax 0x0080#16 t && six t == [1, 0, 0, 0, 1, 1]) = true := by decide
theorem test_mul : runs [0xF7#8, 0xE3#8] (start [(.ax, 0xFFFF#16), (.bx, 0xFFFF#16)])
    (fun t => is .dx 0xFFFE#16 t && is .ax 1#16 t && flag .cf t && flag .of t) = true := by decide
theorem test_imul : (runs [0xF6#8, 0xEB#8] (start [(.ax, 0x00FF#16), (.bx, 2#16)]) (fun t => is .ax 0xFFFE#16 t && !flag .cf t && !flag .of t) &&
    runs [0xF6#8, 0xEB#8] (start [(.ax, 0x0040#16), (.bx, 2#16)]) (fun t => is .ax 0x0080#16 t && flag .cf t && flag .of t)) = true := by decide
theorem test_div : (runs [0xF6#8, 0xF3#8] (start [(.ax, 0x01FF#16), (.bx, 2#16)]) (is .ax 0x01FF#16) &&
    runs [0xF6#8, 0xF3#8] (poke 0#20 [0x00#8, 0x40#8] (start [(.ax, 0x0200#16), (.bx, 2#16)])) (fun t => is .ax 0x0200#16 t && t.ip == 0x4000#16 &&
      word 0xFA#20 0x0102#16 t && word 0xFC#20 0#16 t && word 0xFE#20 0xF002#16 t && is .sp 0x00FA#16 t)) = true := by decide
theorem test_idiv : (runs [0xF6#8, 0xFB#8] (start [(.ax, 0xFFF9#16), (.bx, 2#16)]) (is .ax 0xFFFD#16) &&
    runs [0xF6#8, 0xFB#8] (start [(.ax, 0xFF80#16), (.bx, 1#16)]) (is .sp 0x00FA#16)) = true := by decide
theorem test_daa : (runs [0x27#8] (start [(.ax, 0x003C#16)]) (fun t => is .ax 0x0042#16 t && flag .af t && !flag .cf t) &&
    runs [0x27#8] (start [(.ax, 0x009A#16)]) (fun t => is .ax 0#16 t && flag .af t && flag .cf t && flag .zf t && flag .pf t)) = true := by decide
theorem test_das : (runs [0x2F#8] (setFlag .af true (start [(.ax, 0x002D#16)])) (fun t => is .ax 0x0027#16 t && flag .af t && !flag .cf t) &&
    runs [0x2F#8] (setFlag .cf true (setFlag .af true (start [(.ax, 0x00FF#16)])))
      (fun t => is .ax 0x0099#16 t && flag .af t && flag .cf t && flag .sf t && flag .pf t)) = true := by decide
theorem test_aaa_aas : (runs [0x37#8] (start [(.ax, 0x000C#16)]) (fun t => is .ax 0x0102#16 t && flag .af t && flag .cf t) &&
    runs [0x3F#8] (setFlag .af true (start [(.ax, 0x01FF#16)])) (fun t => is .ax 0x0009#16 t && flag .af t && flag .cf t)) = true := by decide
theorem test_aam_aad : (runs [0xD4#8, 0x0A#8] (start [(.ax, 0x003F#16)]) (fun t => is .ax 0x0603#16 t && !flag .zf t && flag .pf t) &&
    runs [0xD4#8, 0x00#8] (start [(.ax, 0x1234#16)]) (fun t => is .ax 0x1234#16 t && is .sp 0x00FA#16 t) &&
    runs [0xD5#8, 0x0A#8] (start [(.ax, 0x1F05#16)]) (is .ax 0x003B#16)) = true := by decide

/-! ### Logic and shifts (LG, SH) -/

theorem test_and : runs [0x83#8, 0xE0#8, 0xF0#8] (start [(.ax, 0x1234#16)]) (is .ax 0x1230#16) = true := by decide
theorem test_or : runs [0x0C#8, 0x01#8] (setFlag .of true (setFlag .cf true (start [(.ax, 0x0080#16)])))
    (fun t => is .ax 0x0081#16 t && flag .sf t && flag .pf t && !flag .zf t && !flag .cf t && !flag .of t) = true := by decide
theorem test_xor : runs [0x31#8, 0xC0#8] (start [(.ax, 0x1234#16)]) (fun t => is .ax 0#16 t && flag .zf t && flag .pf t) = true := by decide
theorem test_test : runs [0xA8#8, 0x01#8] (start [(.ax, 1#16)]) (fun t => is .ax 1#16 t && !flag .zf t && !flag .pf t) = true := by decide
theorem test_not : runs [0xF6#8, 0xD0#8] (setFlagsWord 0x08D5#16 (start [(.ax, 0x0055#16)])) (fun t => is .ax 0x00AA#16 t && six t == [1, 1, 1, 1, 1, 1]) = true := by decide
theorem test_shl : (runs [0xD0#8, 0xE0#8] (start [(.ax, 0x0081#16)]) (fun t => is .ax 2#16 t && flag .cf t && flag .of t) &&
    runs [0xD3#8, 0xE0#8] (start [(.ax, 1#16), (.cx, 16#16)]) (fun t => is .ax 0#16 t && flag .cf t && flag .zf t)) = true := by decide
theorem test_shr : runs [0xD2#8, 0xE8#8] (start [(.ax, 0x00FF#16), (.cx, 9#16)]) (fun t => is .ax 0#16 t && !flag .cf t && flag .zf t) = true := by decide
theorem test_sar : (runs [0xD2#8, 0xF8#8] (start [(.ax, 0x0080#16), (.cx, 9#16)]) (fun t => is .ax 0x00FF#16 t && flag .cf t) &&
    runs [0xC0#8, 0xF8#8, 0x02#8] (start [(.ax, 0x000F#16)]) (fun t => is .ax 3#16 t && flag .cf t)) = true := by decide
theorem test_rol_ror : (runs [0xD2#8, 0xC0#8] (start [(.ax, 0x0081#16), (.cx, 8#16)]) (fun t => is .ax 0x0081#16 t && flag .cf t) &&
    runs [0xD0#8, 0xC8#8] (start [(.ax, 1#16)]) (fun t => is .ax 0x0080#16 t && flag .cf t && flag .of t)) = true := by decide
theorem test_rcl_rcr : (runs [0xD2#8, 0xD0#8] (start [(.ax, 0x0081#16), (.cx, 9#16)]) (fun t => is .ax 0x0081#16 t && !flag .cf t) &&
    runs [0xD0#8, 0xD8#8] (setFlag .cf true (start [(.ax, 1#16)])) (fun t => is .ax 0x0080#16 t && flag .cf t && flag .of t)) = true := by decide
theorem test_shift_mask : runs [0xD2#8, 0xE0#8] { start [(.ax, 1#16), (.cx, 0x21#16)] with params := { Params.default with shiftCountMask := 0x1F#8 } }
    (fun t => is .ax 2#16 t && !flag .cf t && !flag .of t) = true := by decide

/-! ### Strings (ST) -/

theorem test_movsw_rep_down : runs [0xF3#8, 0xA5#8]
    (setFlag .df true (poke 0x100#20 [0x11#8, 0x11#8, 0x22#8, 0x22#8, 0x33#8, 0x33#8] ((start [(.si, 0x0104#16), (.di, 0x0204#16), (.cx, 3#16)]).setIp 0x0400#16)))
    (fun t => word 0x200#20 0x1111#16 t && word 0x202#20 0x2222#16 t && word 0x204#20 0x3333#16 t &&
      is .si 0x00FE#16 t && is .di 0x01FE#16 t && is .cx 0#16 t) = true := by decide
theorem test_rep_zero : runs [0xF3#8, 0xA4#8] (start [(.si, 0x0100#16), (.di, 0x0200#16)]) (fun t => is .si 0x0100#16 t && is .di 0x0200#16 t && is .cx 0#16 t) = true := by decide
theorem test_repe_cmpsb : runs [0xF3#8, 0xA6#8]
    (poke 0x200#20 [0x41#8, 0x42#8, 0x43#8] (poke 0x180#20 [0x41#8, 0x58#8, 0x43#8] (start [(.si, 0x0180#16), (.di, 0x0200#16), (.cx, 3#16)])))
    (fun t => is .cx 1#16 t && is .si 0x0182#16 t && is .di 0x0202#16 t && !flag .zf t && !flag .cf t && !flag .pf t) = true := by decide
theorem test_repne_scasb : runs [0xF2#8, 0xAE#8] (poke 0x300#20 [1#8, 2#8, 3#8] (start [(.di, 0x0300#16), (.ax, 2#16), (.cx, 3#16)]))
    (fun t => is .di 0x0302#16 t && is .cx 1#16 t && flag .zf t) = true := by decide
theorem test_lodsw_override : runs [0x3E#8, 0x2E#8, 0xAD#8] (poke 0x10000#20 [0xFE#8, 0xCA#8] (setSreg .cs 0x1000#16 start))
    (fun t => is .ax 0xCAFE#16 t && is .si 2#16 t) = true := by decide
theorem test_stosb_wraps : runs [0x26#8, 0xAA#8] (start [(.ax, 0x0055#16), (.di, 0xFFFF#16)]) (fun t => peek8 0x0FFFF#20 t == 0x55#8 && is .di 0#16 t) = true := by decide

/-! ### Control transfer (CT) -/

theorem test_jmp : (runs [0xEB#8, 0x80#8] start (fun t => t.ip == 0x0082#16) &&
    runs [0xE9#8, 0x20#8, 0x00#8] (start.setIp 0xFFF0#16) (fun t => t.ip == 0x0013#16) &&
    runs [0xFF#8, 0x2E#8, 0x00#8, 0x02#8] (poke 0x200#20 [0x00#8, 0x10#8, 0x00#8, 0xF0#8] start) (fun t => sreg .cs t == 0xF000#16 && t.ip == 0x1000#16)) = true := by decide
theorem test_call : (runs [0x9A#8, 0x00#8, 0x30#8, 0x00#8, 0xF0#8] start (fun t => is .sp 0x00FC#16 t && word 0xFE#20 0#16 t && word 0xFC#20 0x0105#16 t &&
      sreg .cs t == 0xF000#16 && t.ip == 0x3000#16) &&
    runs [0xFF#8, 0xD3#8] (start [(.bx, 0x0500#16)]) (fun t => word 0xFE#20 0x0102#16 t && t.ip == 0x0500#16)) = true := by decide
theorem test_ret : (runs [0xC2#8, 0x04#8, 0x00#8] (poke 0xFA#20 [0x00#8, 0x02#8] ((start [(.sp, 0x00FA#16)]).setIp 0x0300#16)) (fun t => t.ip == 0x0200#16 && is .sp 0x0100#16 t) &&
    runs [0xCB#8] (poke 0xFC#20 [0x05#8, 0x01#8, 0x00#8, 0x20#8] ((start [(.sp, 0x00FC#16)]).setIp 0x0300#16))
      (fun t => t.ip == 0x0105#16 && sreg .cs t == 0x2000#16 && is .sp 0x0100#16 t)) = true := by decide
/-- After CMP AL, 80h with AL = 7Fh: CF = SF = OF = 1, ZF = 0. -/
theorem test_jcc : (let s := setFlagsWord 0x0881#16 start
    runs [0x7C#8, 0x02#8] s (fun t => t.ip == 0x0102#16) && runs [0x7D#8, 0x02#8] s (fun t => t.ip == 0x0104#16) &&
    runs [0x72#8, 0x02#8] s (fun t => t.ip == 0x0104#16) && runs [0x77#8, 0x02#8] s (fun t => t.ip == 0x0102#16) &&
    runs [0x7F#8, 0x02#8] s (fun t => t.ip == 0x0104#16) && runs [0x7A#8, 0x02#8] s (fun t => t.ip == 0x0102#16)) = true := by decide
theorem test_loop : (runs [0xE2#8, 0xFE#8] start (fun t => is .cx 0xFFFF#16 t && t.ip == 0x0100#16) &&
    runs [0xE1#8, 0xFE#8] (setFlag .zf true (start [(.cx, 2#16)])) (fun t => is .cx 1#16 t && t.ip == 0x0100#16) &&
    runs [0xE0#8, 0xFE#8] (setFlag .zf true (start [(.cx, 2#16)])) (fun t => is .cx 1#16 t && t.ip == 0x0102#16) &&
    runs [0xE3#8, 0x05#8] start (fun t => t.ip == 0x0107#16)) = true := by decide
theorem test_int : runs [0xCD#8, 0x21#8] (setFlag .if true (poke 0x84#20 [0x00#8, 0x10#8, 0x00#8, 0xF0#8] (start.setIp 0x0200#16)))
    (fun t => word 0xFE#20 0xF202#16 t && word 0xFC#20 0#16 t && word 0xFA#20 0x0202#16 t && is .sp 0x00FA#16 t && !flag .if t && !flag .tf t &&
      sreg .cs t == 0xF000#16 && t.ip == 0x1000#16) = true := by decide
theorem test_into : (runs [0xCE#8] start (fun t => t.ip == 0x0101#16 && is .sp 0x0100#16 t) &&
    runs [0xCE#8] (setFlag .of true (poke 0x10#20 [0x00#8, 0x60#8] start)) (fun t => word 0xFA#20 0x0101#16 t && t.ip == 0x6000#16)) = true := by decide
theorem test_iret : runs [0xCF#8] (poke 0xFA#20 [0x02#8, 0x02#8, 0x00#8, 0x00#8, 0x02#8, 0xF2#8] ((start [(.sp, 0x00FA#16)]).setIp 0x0300#16))
    (fun t => t.ip == 0x0202#16 && flag .if t && six t == [0, 0, 0, 0, 0, 0] && is .sp 0x0100#16 t) = true := by decide

/-! ### Processor control and the 80186 (PC, X) -/

theorem test_flag_instructions : (runs [0xF9#8] start (flag .cf) && runs [0xF5#8] start (flag .cf) && runs [0xFD#8] start (flag .df) && runs [0xFB#8] start (flag .if) &&
    runs [0xF8#8] (setFlag .cf true start) (fun t => !flag .cf t) && runs [0xFC#8] (setFlag .df true start) (fun t => !flag .df t) &&
    runs [0xFA#8] (setFlag .if true start) (fun t => !flag .if t)) = true := by decide
theorem test_hlt : runs [0xF4#8] start (fun t => t.run == .halted && t.ip == 0x0101#16) = true := by decide
theorem test_lock : runs [0xF0#8, 0xFE#8, 0x06#8, 0x80#8, 0x01#8] (poke 0x180#20 [0x41#8] start) (fun t => peek8 0x180#20 t == 0x42#8) = true := by decide
theorem test_wait_esc : (runs [0x9B#8] start (fun t => t.ip == 0x0101#16) && runs [0xD9#8, 0x06#8, 0x00#8, 0x01#8] start (fun t => t.ip == 0x0104#16)) = true := by decide
theorem test_fatal : (runs [0x0F#8] start (fun t => t.run == .fatal .unmappedOpcode && t.ip == 0x0101#16) && runs [0xFF#8, 0xF8#8] start (fun t => t.run == .fatal .unmappedOpcode) &&
    runs [0x60#8] start (fun t => t.run == .fatal .unmappedOpcode)) = true := by decide

/-- A state of a machine launched with EXT186. -/
def start186 (rs : List (Reg16 × Word)) : State := { start rs with params := { Params.default with ext186 := true } }

theorem test_pusha : runs [0x60#8] (start186 [(.ax, 1#16), (.cx, 2#16), (.dx, 3#16), (.bx, 4#16), (.bp, 5#16), (.si, 6#16), (.di, 7#16)])
    (fun t => is .sp 0x00F0#16 t && [(0xFE#20, 1#16), (0xFC#20, 2#16), (0xFA#20, 3#16), (0xF8#20, 4#16), (0xF6#20, 0x0100#16), (0xF4#20, 5#16),
      (0xF2#20, 6#16), (0xF0#20, 7#16)].all fun x => word x.1 x.2 t) = true := by decide +kernel
theorem test_popa : runs [0x61#8] (poke 0xF0#20 [7#8, 0#8, 6#8, 0#8, 5#8, 0#8, 0#8, 1#8, 4#8, 0#8, 3#8, 0#8, 2#8, 0#8, 1#8] ((start186 [(.sp, 0x00F0#16)]).setIp 0x0200#16))
    (fun t => is .di 7#16 t && is .si 6#16 t && is .bp 5#16 t && is .bx 4#16 t && is .dx 3#16 t && is .cx 2#16 t && is .ax 1#16 t && is .sp 0x0100#16 t) = true := by decide +kernel
theorem test_bound : (let s := poke 0x10#20 [0#8, 0#8, 9#8, 0#8] (start186 [(.ax, 10#16)])
    runs [0x62#8, 0x06#8, 0x10#8, 0x00#8] s (fun t => word 0xFA#20 0x0100#16 t && is .sp 0x00FA#16 t) &&
    runs [0x62#8, 0x06#8, 0x10#8, 0x00#8] (setReg16 .ax 9#16 s) (fun t => t.ip == 0x0104#16 && is .sp 0x0100#16 t)) = true := by decide
theorem test_imul_imm : (runs [0x6B#8, 0xC3#8, 0x10#8] (start186 [(.bx, 0x0100#16)]) (fun t => is .ax 0x1000#16 t && !flag .cf t && !flag .of t) &&
    runs [0x69#8, 0xC3#8, 0x04#8, 0x00#8] (start186 [(.bx, 0x4000#16)]) (fun t => is .ax 0#16 t && flag .cf t && flag .of t)) = true := by decide
theorem test_push_imm : runs [0x6A#8, 0xFF#8] (start186 []) (word 0xFE#20 0xFFFF#16) = true := by decide
theorem test_ins_outs : (runs [0x6C#8] (start186 [(.dx, 0x0021#16), (.di, 0x0200#16)] |>.setPic { Pic.reset with imr := 0xFF#8 })
      (fun t => peek8 0x200#20 t == 0xFF#8 && is .di 0x0201#16 t) &&
    runs [0x6E#8] (poke 0x180#20 [0x5A#8] (start186 [(.dx, 0x0021#16), (.si, 0x0180#16)])) (fun t => t.pic.imr == 0x5A#8 && is .si 0x0181#16 t)) = true := by decide
theorem test_enter_leave : (runs [0xC8#8, 0x04#8, 0x00#8, 0x00#8] (start186 [(.bp, 0x0200#16)]) (fun t => word 0xFE#20 0x0200#16 t && is .bp 0x00FE#16 t && is .sp 0x00FA#16 t) &&
    runs [0xC9#8] (poke 0xFE#20 [0x00#8, 0x02#8] ((start186 [(.bp, 0x00FE#16), (.sp, 0x00FA#16)]).setIp 0x0300#16)) (fun t => is .sp 0x0100#16 t && is .bp 0x0200#16 t)) = true := by decide

/-! ### Interrupts, the PIC and the services (IN, PI, DK, VB, VA) -/

/-- The step of a machine at its batch's boundary. -/
def boundaryRuns (s : State) (p : State → Bool) : Bool :=
  match step (s.setBatch (some 0)) with
  | .next t => p t && t.batch == none
  | _ => false

/-- The step of a machine whose next host event is `e`. -/
def eventRuns (e : HostEvent) (s : State) (p : State → Bool) : Bool :=
  match step (s.setEvents [e]) with
  | .next t => p t
  | _ => false

theorem test_single_step : (runs [0x90#8] (setFlag .tf true (poke 4#20 [0x00#8, 0x70#8] start))
      (fun t => word 0xFE#20 0xF102#16 t && word 0xFA#20 0x0101#16 t && !flag .tf t && t.ip == 0x7000#16) &&
    runs [0xF4#8] (setFlag .tf true start) (fun t => word 0xFA#20 0x0101#16 t && t.run == .running) &&
    runs [0x0F#8] (setFlag .tf true start) (fun t => t.run == .fatal .unmappedOpcode && is .sp 0x0100#16 t)) = true := by decide
theorem test_irq : (boundaryRuns (setFlag .if true (start.setPic { Pic.reset with irr := 0x06#8, imr := 0x02#8, icw2 := 0x08#8 }))
      (fun t => t.pic.irr == 0x02#8 && t.pic.isr == 0x04#8 && word 0xFA#20 0x0100#16 t) &&
    boundaryRuns (start.setPic { Pic.reset with irr := 0x01#8 }) (fun t => t.pic.irr == 0x01#8 && is .sp 0x0100#16 t)) = true := by decide
theorem test_hard_reset : boundaryRuns (setFlag .if true (start.setPic { Pic.reset with irr := 0x01#8 }) |>.setHardReset true)
    (fun t => t.pic.irr == 0x01#8 && sreg .cs t == 0xFFFF#16 && t.ip == 0#16 && !flag .if t) = true := by decide
theorem test_pic_eoi : (runs [0xE6#8, 0x20#8] ((start [(.ax, 0x0063#16)]).setPic { Pic.reset with isr := 0x06#8 }) (fun t => t.pic.isr == 0x04#8) &&
    runs [0xE6#8, 0x20#8] ((start [(.ax, 0x0020#16)]).setPic { Pic.reset with isr := 0x01#8, makeupTicks := 2 })
      (fun t => t.pic.isr == 0#8 && t.pic.irr == 1#8 && t.pic.makeupTicks == 1)) = true := by decide
theorem test_pic_icw : (runs [0xE6#8, 0x20#8] ((start [(.ax, 0x0018#16)]).setPic { Pic.reset with imr := 0x5A#8 })
      (fun t => t.pic.imr == 0#8 && t.pic.icw1 == 0x18#8 && t.pic.step == .icw2) &&
    runs [0xE6#8, 0x21#8] ((start [(.ax, 0x0009#16)]).setPic { Pic.reset with icw1 := 0x13#8, step := .icw3 })
      (fun t => t.pic.icw4 == 0x09#8 && t.pic.icw3 == 0#8 && t.pic.step == .complete)) = true := by decide

/-- A 1474560-byte image in drive 0, byte 4800h being 5Ah and the last byte A5h. -/
def floppy : State := insertImage 0x00#8 1474560 [(0x4800, 0x5A#8), (1474559, 0xA5#8)] (start [(.bx, 0x7C00#16)])

/-- VA6: bit 5 of the address byte is dropped. -/
theorem test_attr_index : (portWrite8 0x3C0#16 0x21#8 start).video.attr.index = 1#5 ∧
    (portWrite8 0x3C0#16 0x21#8 start).video.attr.flipflop = .data := by decide
/-- R871: step(3) runs its first slot and leaves two; R851: an eject waits inside a batch, is done between two, and is
done after the run's end (R873). -/
theorem test_batch : (eventRuns (.step 2) (poke 0x100#20 [0x40#8] start) (fun t => t.batch == some 2 && is .ax 1#16 t && t.events == []) &&
    eventRuns (.eject 0#8) ((poke 0x100#20 [0x40#8] floppy).setBatch (some 1))
      (fun t => t.batch == some 0 && is .ax 1#16 t && (t.disk.at 0#8).inserted && t.events == [.eject 0#8]) &&
    eventRuns (.eject 0#8) floppy (fun t => !(t.disk.at 0#8).inserted && t.events == []) &&
    eventRuns .shutdown (floppy.setRun .stopped) (fun t => !(t.disk.at 0#8).inserted && t.run == .stopped)) = true := by decide +kernel
theorem test_disk_read : runs [0xCD#8, 0x13#8] (setReg16 .ax 0x0201#16 (setReg16 .cx 0x0101#16 floppy))
    (fun t => peek8 0x07C00#20 t == 0x5A#8 && is .ax 0x0001#16 t && !flag .cf t && is .sp 0x0100#16 t) = true := by decide +kernel
/-- DK7: the last sector is read, the one after it fails. -/
theorem test_disk_read_end : runs [0xCD#8, 0x13#8]
    { setReg16 .ax 0x0202#16 (setReg16 .cx 0x4F12#16 (setReg16 .dx 0x0100#16 floppy)) with params := { Params.default with diskErrRead := 4#8 } }
    (fun t => peek8 0x07DFF#20 t == 0xA5#8 && is .ax 0x0401#16 t && flag .cf t) = true := by decide +kernel
theorem test_disk_params : runs [0xCD#8, 0x13#8] (setReg16 .ax 0x0800#16 floppy)
    (fun t => is .cx 0x4F12#16 t && is .dx 0x0102#16 t && reg8 .bl t == 4#8 && reg8 .ah t == 0#8 && !flag .cf t) = true := by decide +kernel
theorem test_disk_unsupported : runs [0xCD#8, 0x13#8] (setReg16 .ax 0x1500#16 floppy)
    (fun t => flag .cf t && is .ax 0x1500#16 t && t.disk.lastAh.get 0#8 0 == 0x15#8 && t.disk.lastCf.get false 0) = true := by decide

theorem test_video_mode : (runs [0xCD#8, 0x10#8] (start [(.ax, 0x0083#16)])
      (fun t => t.video.mode.number == 3#7 && t.video.mode.cols == 80 && t.video.mode.noblank && is .ax 0x0083#16 t && is .sp 0x0100#16 t) &&
    runs [0xCD#8, 0x10#8] (start [(.ax, 0x0093#16)]) (fun t => t.video.mode.width == 320 && t.video.mode.base == .a0000 && !t.video.mode.text) &&
    runs [0xCD#8, 0x10#8] (start [(.ax, 0x0F00#16)]) (is .sp 0x00FA#16)) = true := by decide
theorem test_video_unlisted : (match step (placeBytes [0xCD#8, 0x10#8] 0 (start [(.ax, 0x0008#16)])) with
    | .refused r => r == .unlistedVideoMode 8#7
    | _ => false) = true := by decide
theorem test_dac : (let s := ([(0x3C8#16, 0x05#8), (0x3C9#16, 0x3F#8), (0x3C9#16, 0x00#8), (0x3C9#16, 0x20#8)]).foldl (fun s w => portWrite8 w.1 w.2 s) start
    s.video.dac.entry 5#8 == 0xFC0080#24 && s.video.dac.writeIndex == 6#8) = true := by decide
theorem test_attribute : (let s := ([(0x3C0#16, 0x01#8), (0x3C0#16, 0x14#8)]).foldl (fun s w => portWrite8 w.1 w.2 s) start
    s.video.attr.palette.get 0#24 1 == 0xAA5500#24 && s.video.attr.flipflop == .address) = true := by decide

/-- Plane 0 to 3 at an offset. -/
def planesAt (k : Nat) (s : State) : List Byte := [planeGet s.video.planes.p0 k, planeGet s.video.planes.p1 k, planeGet s.video.planes.p2 k, planeGet s.video.planes.p3 k]

/-- The state with graphics-controller registers set. -/
def withGc (rs : List (Nat × Byte)) (s : State) : State := s.setVideo { s.video with gc := rs.foldl (fun t r => t.set 0#8 r.1 r.2) s.video.gc }

theorem test_planar_write : (planesAt 0 (write8 0xA0000#20 0xFF#8 (withGc [(1, 1#8)] start)) == [0#8, 0xFF#8, 0xFF#8, 0xFF#8] &&
    planesAt 0 (write8 0xA0000#20 5#8 (withGc [(5, 2#8)] start)) == [0xFF#8, 0#8, 0xFF#8, 0#8] &&
    planesAt 4 (write8 0xA0004#20 1#8 (withGc [(3, 1#8)] start)) == [0x80#8, 0x80#8, 0x80#8, 0x80#8] &&
    planesAt 2 (write8 0xA0002#20 0xF0#8 (withGc [(3, 8#8)] (start.setVideo { start.video with latch := 0x00FF00FF#32 }))) == [0xF0#8, 0#8, 0xF0#8, 0#8] &&
    planesAt 5 (write8 0xA0005#20 0xF0#8 (withGc [(0, 0x0F#8), (5, 3#8)] (start.setVideo { start.video with latch := 0x11223344#32 }))) ==
      [0x44#8, 0x33#8, 0x22#8, 0x11#8]) = true := by decide
theorem test_planar_read : (let s := start.setVideo { start.video with planes := ⟨[(0, 0xFF#8)], [], [(0, 0xFF#8)], []⟩ }
    (read8 0xA0000#20 s).2.video.latch == 0x00FF00FF#32 && (read8 0xA0000#20 (withGc [(4, 2#8)] s)).1 == 0xFF#8 &&
    (read8 0xA0000#20 (withGc [(5, 8#8), (2, 5#8), (7, 0x0F#8)] s)).1 == 0xFF#8 && (read8 0xA0000#20 (withGc [(5, 8#8), (2, 0x0F#8), (7, 0x0F#8)] s)).1 == 0#8) = true := by decide
/-- M2: a word store half in ROM; M1: the ROM byte stays. -/
theorem test_rom : (let s := loadRom 0xF0000#20 [0xEA#8, 0x5B#8] start
    peek8 0xEFFFF#20 (write16 0xEFFFF#20 0x1234#16 s) == 0x34#8 && peek8 0xF0000#20 (write16 0xEFFFF#20 0x1234#16 s) == 0xEA#8) = true := by decide
theorem test_word_wraps : peek16 0xFFFFF#20 (poke 0#20 [0x12#8] (poke 0xFFFFF#20 [0x34#8] start)) = 0x1234#16 := by decide

/-! ## Witnesses: for each statement with hypotheses, a state and operands that meet them, for each clause -/

theorem witness_DecodeAfterEncodeIsIdentity : (Instr.enter 0xFFFF#16 0xFF#8).wf true = true ∧
    (Instr.add (.byte (.ebIb (.mem (.disp16 .bp 0xFFFF#16)) 0xFF#8))).wf false = true := by decide
theorem witness_EncodeAfterDecodeIsIdentity : decode false [0x83#8, 0xC0#8, 0xFF#8, 0x90#8] =
    .ok (.add (.word (.ewIbs (.reg .ax) 0xFF#8)), [0x90#8]) := by decide
theorem witness_EverySixBytesDecode : 6 ≤ [0xC7#8, 0x06#8, 0x34#8, 0x12#8, 0x78#8, 0x56#8].length := by decide
theorem witness_StepRunsDecodedInstruction : State.reset.run = .running ∧ State.reset.events = [] ∧
    (State.reset.setBatch (some 1)).batch = some (0 + 1) ∧ (State.reset.batch = none ∧ 0xFFFF = State.reset.params.moreSlots) ∧
    decode State.reset.params.ext186 (codeBytes State.reset) =
      .ok (.add (.byte (.ebGb (.mem (.base .bxsi)) .al)), [0#8, 0#8, 0#8, 0#8]) ∧
    (Instr.add (.byte (.ebGb (.mem (.base .bxsi)) .al))).isPrefix = false := by decide

/-- F3 at CS:IP, for the prefix clauses. -/
theorem witness_PrefixesSetTheirSlots : (let s := placeBytes [0xF3#8, 0xA4#8] 0 start
    s.run = .running ∧ s.events = [] ∧ (s.batch = none ∧ 0xFFFF = s.params.moreSlots) ∧
      (prefixLoop 65537 ((((s.setBatch (some 0xFFFF)).setSegOverride none).setRep none).setInstrIP s.ip)).isSome = true ∧ decode s.params.ext186 (codeBytes s) = .ok (.rep, [0xA4#8, 0#8, 0#8, 0#8, 0#8]) ∧
      Instr.rep.isPrefix = true) := by decide

/-- A run of n bytes of one value from an address on. -/
def filled (v : Byte) : Nat → Nat → Memory
  | _, 0 => []
  | a, n + 1 => (a, v) :: filled v (a + 1) n

theorem filled_get (v : Byte) (n : Nat) : ∀ a k, a ≤ k → k < a + n → Table.get 0#8 (filled v a n) k = v := by
  induction n with
  | zero => intro a k h₁ h₂; omega
  | succ n ih =>
    intro a k h₁ h₂
    simp only [filled, Table.get_cons]
    split
    · rfl
    · exact ih _ _ (by omega) (by omega)

/-- A code segment at 0 that holds the byte 26 (ES:) 65536 times. -/
def allPrefixes : State := start.setRam (filled 0x26#8 0 65536)

theorem witness_PrefixesSetTheirSlots_hang : allPrefixes.run = .running ∧ allPrefixes.events = [] ∧
    (allPrefixes.batch = none ∧ 0xFFFF = allPrefixes.params.moreSlots) ∧
    ∀ off : Word, peek8 (lin (sreg .cs allPrefixes) off) allPrefixes ∈
      [0x26#8, 0x2E#8, 0x36#8, 0x3E#8, 0xF0#8, 0xF2#8, 0xF3#8] := by
  refine ⟨rfl, rfl, ⟨rfl, rfl⟩, fun off => ?_⟩
  have hcs : sreg .cs allPrefixes = 0#16 := rfl
  have hlin : (lin 0#16 off).toNat = off.toNat := by
    have := off.isLt
    simp only [lin, BitVec.toNat_add, BitVec.toNat_setWidth, BitVec.toNat_shiftLeft, BitVec.toNat_ofNat]
    omega
  have hap : inAperture (lin 0#16 off) = false := by
    have := off.isLt
    rw [Bool.eq_false_iff]
    intro h
    have := (inAperture_iff _).1 h
    omega
  have hb : peek8 (lin 0#16 off) allPrefixes = 0x26#8 := by
    rw [peek8, if_neg (by simp [hap]), ramGet, hlin]
    exact filled_get _ _ _ _ (by omega) (by have := off.isLt; omega)
  rw [hcs, hb]
  decide

theorem witness_StepKeepsTheInvariant : State.reset.Inv ∧ ∃ t, step State.reset = .next t :=
  ⟨⟨⟨rfl, rfl, rfl, rfl, rfl⟩, rfl, rfl, rfl⟩, _, rfl⟩

/-- A NOP next to run, the first and last bytes of memory and of the aperture read-only. -/
def romState : State := (placeBytes [0x90#8] 0 start).setReadonly [0, 0xA0000, 0xAFFFF, 0xFFFFF]

theorem witness_ReadOnlyBytesNeverChange : isReadonly 0x00000#20 romState = true ∧ isReadonly 0xFFFFF#20 romState = true ∧
    isReadonly 0xA0000#20 romState = true ∧ inAperture 0x00000#20 = false ∧ inAperture 0xFFFFF#20 = false ∧
    romState.events = [] ∧ ∃ t, step romState = .next t := ⟨rfl, rfl, rfl, rfl, rfl, rfl, _, rfl⟩
theorem witness_OnlyNamedInstructionsWriteSystemState : Instr.nop.wf start.params.ext186 = true ∧ exec .nop start = .next start ∧
    mayWriteTF .nop = false ∧ mayWriteIF .nop = false ∧ mayWriteDF .nop = false ∧ mayWriteCS .nop = false ∧
    mayWriteRun .nop = false := ⟨rfl, rfl, rfl, rfl, rfl, rfl, rfl⟩

/-- Plain and read-only bytes on both sides of each bound of the aperture. -/
theorem witness_ByteWritesReadBack :
    (isReadonly 0x9FFFF#20 romState = false ∧ inAperture 0x9FFFF#20 = false) ∧
    (isReadonly 0xB0000#20 romState = false ∧ inAperture 0xB0000#20 = false) ∧
    isReadonly 0xFFFFF#20 romState = true ∧ 0x9FFFF#20 ≠ 0xA0000#20 ∧
    (0xA0000 ≤ (0xA0000#20).toNat ∧ (0xA0000#20).toNat ≤ 0xAFFFF) ∧
    (0xA0000 ≤ (0xAFFFF#20).toNat ∧ (0xAFFFF#20).toNat ≤ 0xAFFFF) := by decide
/-- The word at FFFFF, whose high byte is at 0. -/
theorem witness_WordsAreTwoBytes :
    (inAperture 0xFFFFF#20 = false ∧ isReadonly 0xFFFFF#20 start = false ∧ inAperture (0xFFFFF#20 + 1) = false ∧
      isReadonly (0xFFFFF#20 + 1) start = false) ∧
    (isReadonly 0xFFFFF#20 romState = true ∧ isReadonly (0xFFFFF#20 + 1) romState = true) := by decide
theorem witness_ByteRegistersAreHalves : Reg8.ah ≠ .al ∧ Reg16.cx ≠ fullReg .al ∧ Reg16.sp ≠ .ax := by decide
theorem witness_EffectiveAddresses : (start.setSegOverride (some .cs)).segOverride = some .cs ∧ start.segOverride = none ∧
    EaBase.bpdi ∈ [EaBase.bpsi, .bpdi, .bp] := by decide

theorem witness_MovStoresItsSource : lin (sreg (start.segOverride.getD .ds) start) 0xFFFF#16 = 0x0FFFF#20 ∧ Sreg.es ≠ .cs := by decide
theorem witness_PushesStoreBelowSP : Reg16.ax ≠ .sp := by decide
theorem witness_PopsLoadTheStackTop : Reg16.ax ≠ .sp ∧ Sreg.ss ≠ .cs := by decide
theorem witness_AddressAndTableLoads : lin (sreg (start.segOverride.getD .ds) start) (reg16 .bx start + (0#8 ++ reg8 .al start)) = 0#20 := by decide

/-- The immediate port FF, and DX at FFFF, where the second byte's port is 0. -/
theorem witness_InAndOutAccessTheirPorts : (0x00FF#16 = 0#8 ++ 0xFF#8) ∧
    (0xFFFF#16 = reg16 .dx (start [(.dx, 0xFFFF#16)]) ∧ 0xFFFF#16 ≠ 0#8 ++ 0x00#8) := by decide
theorem witness_OtherPortsUseTheirShadow :
    ([0x1F#16, 0x22#16, 0x3AF#16, 0x3E0#16, 0xFFFF#16].all fun p => decide (p ≠ 0x0020#16 ∧ p ≠ 0x0021#16 ∧ (p.toNat < 0x3B0 ∨ 0x3DF < p.toNat) ∧
      p ∉ start.params.externalPorts)) = true ∧
    0x61#16 ∈ ({ start with params := { Params.default with externalPorts := [0x61#16] } } : State).params.externalPorts := by decide

/-- The attribute flip-flop in data mode with an index. -/
def attrData (i : BitVec 5) : State := start.setVideo { start.video with attr := { start.video.attr with index := i, flipflop := .data } }

theorem witness_AttributeWritesAlternate : start.video.attr.flipflop = .address ∧
    ((attrData 15#5).video.attr.flipflop = .data ∧ (attrData 15#5).video.attr.index.toNat < 16) ∧
    ((attrData 16#5).video.attr.flipflop = .data ∧ 16 ≤ (attrData 16#5).video.attr.index.toNat) := by decide
theorem witness_DacDataCyclesTheChannels : (0x01#8 ≠ start.video.dac.writeIndex) ∧ (23 < 24 ∧ 7 < 8) := by decide
theorem witness_AdapterRoundTrips : (15#8).toNat < 16 := by decide
theorem witness_PlanarReads : inAperture 0xA0000#20 = true ∧ inAperture 0xAFFFF#20 = true ∧
    (start.video.gcReg 5).getLsbD 3 = false ∧ ((withGc [(5, 0x08#8)] start).video.gcReg 5).getLsbD 3 = true ∧
    ((withGc [(7, 0x0F#8)] start).video.gcReg 7).getLsbD 3 = true := by decide
theorem witness_PlanarWrites : inAperture 0xAFFFF#20 = true ∧ isReadonly 0xAFFFF#20 start = false := by decide
theorem witness_IdentityConfigurationStoresTheByte : (let v := start.video
    v.gcReg 5 &&& 3#8 = 0 ∧ v.gcReg 1 &&& 0x0F#8 = 0 ∧ v.gcReg 8 = 0xFF#8 ∧ v.gcReg 3 &&& 0x1F#8 = 0 ∧
      v.seqReg 2 &&& 0x0F#8 = 0x0F#8 ∧ isReadonly (0xA0000#20 + (0xFFFF#16).setWidth 20) start = false ∧
      (v.gcReg 5).getLsbD 3 = false) := by decide

/-- 1 + 1 and 3 - 1 leave every flag clear; FF + 1 sets CF, PF, AF and ZF. -/
theorem witness_ArithmeticFlagsMeanWhatTheyName : 8 ≤ 8 ∧ AddFlagsAre 1#8 1#8 false start ∧ SubFlagsAre 3#8 1#8 false start ∧
    SzpAre 2#8 start ∧ AddFlagsAre 0xFF#8 0#8 true (setFlagsWord 0x0055#16 start) :=
  ⟨by decide, ⟨by decide, by decide, by decide, by decide, by decide, by decide⟩,
    ⟨by decide, by decide, by decide, by decide, by decide, by decide⟩, ⟨by decide, by decide, by decide⟩,
    ⟨by decide, by decide, by decide, by decide, by decide, by decide⟩⟩

/-- The largest and the least quotients that fit. -/
theorem witness_DivisionsInRangeGiveQuotientAndRemainder :
    (let s := start [(.ax, 0x01FF#16), (.bx, 2#16)]
     (rm8Value (.reg .bl) s).toNat ≠ 0 ∧ (reg16 .ax s).toNat / (rm8Value (.reg .bl) s).toNat ≤ 0xFF) ∧
    (let s := start [(.dx, 1#16), (.ax, 0xFFFF#16), (.bx, 2#16)]
     (rm16Value (.reg .bx) s).toNat ≠ 0 ∧ (reg16 .dx s ++ reg16 .ax s).toNat / (rm16Value (.reg .bx) s).toNat ≤ 0xFFFF) ∧
    (let s := start [(.ax, 0xFF81#16), (.bx, 1#16)]
     (rm8Value (.reg .bl) s).toInt ≠ 0 ∧ (reg16 .ax s).toInt.tdiv (rm8Value (.reg .bl) s).toInt ≤ 127 ∧
      (if s.params.idivAllowMostNegative then -128 else -127) ≤ (reg16 .ax s).toInt.tdiv (rm8Value (.reg .bl) s).toInt) ∧
    (let s := start [(.dx, 0#16), (.ax, 0x7FFF#16), (.bx, 0xFFFF#16)]
     (rm16Value (.reg .bx) s).toInt ≠ 0 ∧ (reg16 .dx s ++ reg16 .ax s).toInt.tdiv (rm16Value (.reg .bx) s).toInt ≤ 32767 ∧
      (if s.params.idivAllowMostNegative then -32768 else -32767) ≤
        (reg16 .dx s ++ reg16 .ax s).toInt.tdiv (rm16Value (.reg .bx) s).toInt) := by decide
/-- Division by zero and the first quotients that do not fit. -/
theorem witness_DivideErrorsTakeVectorZero :
    ((rm8Value (.reg .bl) start).toNat = 0 ∧ (rm16Value (.reg .bx) start).toNat = 0 ∧ (rm8Value (.reg .bl) start).toInt = 0) ∧
    (let s := start [(.ax, 0x0200#16), (.bx, 2#16)]
     0xFF < (reg16 .ax s).toNat / (rm8Value (.reg .bl) s).toNat) ∧
    (let s := start [(.dx, 2#16), (.bx, 2#16)]
     0xFFFF < (reg16 .dx s ++ reg16 .ax s).toNat / (rm16Value (.reg .bx) s).toNat) ∧
    (let s := start [(.ax, 0xFF80#16), (.bx, 1#16)]
     (reg16 .ax s).toInt.tdiv (rm8Value (.reg .bl) s).toInt < (if s.params.idivAllowMostNegative then -128 else -127)) ∧
    (let s := start [(.ax, 0x0080#16), (.bx, 1#16)]
     127 < (reg16 .ax s).toInt.tdiv (rm8Value (.reg .bl) s).toInt) ∧
    (let s := start [(.dx, 0x8000#16), (.bx, 0xFFFF#16)]
     32767 < (reg16 .dx s ++ reg16 .ax s).toInt.tdiv (rm16Value (.reg .bx) s).toInt) := by decide
theorem witness_DecimalAdjusts : (1#8 : Byte) ≠ 0 ∧ (0xFF#8 : Byte) ≠ 0 := by decide
theorem witness_ShiftsByCount : shiftCount .cl start = 0 ∧ shiftCount (.imm 0xFF#8) start = 255 ∧
    Instr.sar (.b (.reg .al)) .cl ∈ [Instr.shr (.b (.reg .al)) .cl, .sar (.b (.reg .al)) .cl] := by decide
theorem witness_RotatesByCount : shiftCount .one start = 1 ∧ shiftCount (.imm 9#8) start ≠ 0 := by decide

theorem witness_StringElements : start.rep = none := rfl
theorem witness_RepeatPrefixesLoop : (start.setRep (some .repe)).rep = some .repe ∧ reg16 .cx (start.setRep (some .repe)) = 0 ∧
    reg16 .cx ((start [(.cx, 1#16)]).setRep (some .repne)) ≠ 0 := by decide
theorem witness_RepeatedStringsRunToTheEnd : ((start [(.cx, 0xFFFF#16)]).setRep (some .repe)).rep = some .repe ∧
    ((start [(.cx, 2#16)]).setRep (some .repne)).rep = some .repne := by decide

theorem witness_InterruptsEnterTheirVector : shortCircuited 0x21#8 start = false ∧
    shortCircuited 0x10#8 (start [(.ax, 0x0100#16)]) = false ∧ flag .of (setFlag .of true start) = true ∧ flag .of start = false ∧
    (let s := poke 0x10#20 [0#8, 0#8, 9#8, 0#8] (start [(.ax, 9#16)])
     (peek16 (ea (.direct 0x0010#16) s) s).toInt ≤ (reg16 .ax s).toInt ∧
       (reg16 .ax s).toInt ≤ (peek16 (ea (.direct 0x0010#16) s + 2) s).toInt) ∧
    (let s := poke 0x10#20 [0#8, 0#8, 9#8, 0#8] (start [(.ax, 10#16)])
     (peek16 (ea (.direct 0x0010#16) s + 2) s).toInt < (reg16 .ax s).toInt) ∧
    (let s := poke 0x10#20 [0#8, 0#8, 9#8, 0#8] (start [(.ax, 0xFFFF#16)])
     (reg16 .ax s).toInt < (peek16 (ea (.direct 0x0010#16) s) s).toInt) := by decide

/-- A machine that has reached a Fatal point. -/
def fatalState : State := start.setRun (.fatal .unmappedOpcode)

theorem witness_FatalEncodingsStopTheRun : isFatal (.undefByte 0x0F#8) = true ∧ isFatal (.lea .ax (.reg .bx)) = true ∧
    (Instr.nop.wf fatalState.params.ext186 = true ∧ isFatal .nop = false ∧ exec .nop fatalState = .next fatalState ∧
      fatalState.run = .fatal .unmappedOpcode) ∧
    (start.setRun .stopped).run = .stopped ∧ (∀ d rest, fatalState.events ≠ .eject d :: rest) ∧
    (∀ rest, fatalState.events ≠ .shutdown :: rest) ∧ (fatalState.setEvents [.eject 0#8]).events = .eject 0#8 :: [] ∧
    ((start.setRun .stopped).setEvents [.shutdown]).events = .shutdown :: [] ∧
    ((start.setRun .halted).run = .halted ∧ (start.setRun .halted).events = [] ∧
      ((start.setRun .halted).setBatch (some 1)).batch = some (0 + 1) ∧ 0xFFFF = start.params.moreSlots) :=
  ⟨rfl, rfl, ⟨rfl, rfl, rfl, rfl⟩, rfl, nofun, nofun, rfl, rfl, rfl, rfl, rfl, rfl⟩
theorem witness_SingleStepTrapFollowsTheInstruction : start.run = .running ∧ (start.setRun .halted).run = .halted ∧
    (∃ r, fatalState.run = .fatal r) := ⟨rfl, rfl, _, rfl⟩

/-- A machine at a boundary, with IRQ 7 pending and IF set. -/
def atBoundary : State := (setFlag .if true (start.setPic { Pic.reset with irr := 0x80#8 })).setBatch (some 0)

theorem witness_BatchBoundaries : atBoundary.run = .running ∧ (atBoundary.setRun .halted).run = .halted ∧ atBoundary.events = [] ∧ atBoundary.batch = some 0 ∧
    (atBoundary.hardReset = false ∧ (atBoundary.setHostRunning false).hostRunning = false) ∧
    (atBoundary.hostRunning = true ∧ flag .if (setFlag .if false atBoundary) = false) ∧
    ((atBoundary.setPic Pic.reset).pic.irr &&& ~~~(atBoundary.setPic Pic.reset).pic.imr) = 0 ∧
    (flag .if atBoundary = true ∧ (atBoundary.pic.irr &&& ~~~atBoundary.pic.imr).getLsbD 7 = true ∧
      ∀ j, j < 7 → (atBoundary.pic.irr &&& ~~~atBoundary.pic.imr).getLsbD j = false) ∧
    (atBoundary.setHardReset true).hardReset = true := by decide
/-- One host event of each kind waiting, between batches and inside one; a ROM that wraps past the top of memory; a
step inside a batch. -/
theorem witness_HostOperations : (start.events = [] ∧ start.batch = none ∧ (start.setBatch (some 0)).batch ≠ none) ∧
    (∃ t, step (start.setBatch (some 0)) = .next t) ∧
    ([.pass, .raise 7#3, .addTicks 3, .stop, .hardReset, .step 9, .shutdown, .setBootDrive 0x80#8, .loadRom 0xFFFFF#20 [0xEA#8, 0x5B#8], .insertImage 0xFF#8 163840 [],
      .insertRaw 0x80#8 512 1 1 1 [], .eject 0x00#8] : List HostEvent).all
      (fun e => (start.setEvents [e]).run == .running && (start.setEvents [e]).events == [e]) = true ∧
    [0xEA#8, 0x5B#8].length ≤ 2 ^ 20 ∧ ((0x00000#20 - 0xFFFFF#20).toNat < 2 ∧ 2 ≤ (0x00001#20 - 0xFFFFF#20).toNat) :=
  ⟨⟨rfl, rfl, nofun⟩, ⟨_, rfl⟩, by decide⟩

/-- The PIC with icw_step, icw[1] and ISR given. -/
def picState (step : IcwStep) (icw1 isr : Byte) : State := start.setPic { Pic.reset with step := step, icw1 := icw1, isr := isr }

theorem witness_PicPortsProgramThePic :
    ((0x10#8).getLsbD 4 = true) ∧ ((0x08#8).getLsbD 4 = false ∧ 0x08#8 &&& 0x98#8 = 0x08#8) ∧
    ((0x20#8).getLsbD 4 = false ∧ 0x20#8 &&& 0x98#8 ≠ 0x08#8 ∧ (0x20#8).getLsbD 5 = true) ∧ (picState .complete 0#8 0#8).pic.isr = 0 ∧
    ((picState .complete 0#8 0x80#8).pic.isr.getLsbD 7 = true ∧ ∀ j, j < 7 → (picState .complete 0#8 0x80#8).pic.isr.getLsbD j = false) ∧
    (picState .complete 0#8 1#8).pic.isr.getLsbD 0 = true ∧
    ((0x40#8).getLsbD 4 = false ∧ 0x40#8 &&& 0x98#8 ≠ 0x08#8 ∧ (0x40#8).getLsbD 5 = false) ∧
    (picState .complete 0#8 0#8).pic.step = .complete ∧ (picState .icw2 0#8 0#8).pic.step = .icw2 ∧
    ((picState .icw3 0x11#8 0#8).pic.step = .icw3 ∧ (picState .icw3 0x11#8 0#8).pic.icw1.getLsbD 1 = false) ∧
    ((picState .icw3 0x13#8 0#8).pic.step = .icw3 ∧ (picState .icw3 0x13#8 0#8).pic.icw1.getLsbD 1 = true) ∧
    (picState .icw4 0x11#8 0#8).pic.step = .icw4 := by decide

/-- AH, DL and the drives of the disk calls: the floppy in 00, nothing in 01, a fixed disk in 80. -/
def diskState (ax dx : Word) : State := insertImage 0x80#8 10485760 [] (setReg16 .ax ax (setReg16 .dx dx floppy))

theorem witness_DiskStatusCalls : (diskState 0#16 0#16).params.int13ShortCircuit = true ∧
    ([0x0000#16, 0x0100#16, 0x0400#16, 0x0500#16, 0x0800#16, 0x1500#16].all fun ax => decide (reg8 .ah (diskState ax 0#16) ∉ [0x02#8, 0x03#8])) = true ∧
    (reg8 .ah (diskState 0x0800#16 1#16) = 0x08#8 ∧ ((diskState 0x0800#16 1#16).disk.at 1#8).inserted = false) ∧
    (let d := (diskState 0x0800#16 0#16).disk.at 0#8
     d.inserted = true ∧ 1 ≤ d.cyls ∧ 1 ≤ d.heads ∧ (0#8).toNat < 0x80) ∧
    (((diskState 0x0800#16 0x80#16).disk.at 0x80#8).inserted = true ∧ 0x80 ≤ (0x80#8).toNat) := by decide
/-- R608's checks: no disk in 01; sector 0; an offset past the end; the last offset the check lets through. -/
theorem witness_DiskTransfers : (diskState 0x0201#16 0#16).params.int13ShortCircuit = true ∧
    reg8 .ah (diskState 0x0201#16 0#16) ∈ [0x02#8, 0x03#8] ∧ reg8 .ah (diskState 0x0301#16 0#16) ∈ [0x02#8, 0x03#8] ∧
    ((diskState 0x0201#16 1#16).disk.at 1#8).inserted = false ∧ ((diskState 0x0201#16 0#16).disk.at 0#8).inserted = true ∧
    (reg8 .cl (diskState 0x0201#16 0#16)).toNat % 64 = 0 ∧
    (let drive := (diskState 0x0201#16 0#16).disk.at 0#8
     drive.raw = false ∧ drive.size < ((81 * drive.heads + 0) * drive.sects + 1 - 1) * 512 ∧ ((80 * drive.heads + 0) * drive.sects + 1 - 1) * 512 ≤ drive.size) := by decide
theorem witness_VideoServiceCalls : start.params.int10ShortCircuit.contains (reg8 .ah start) = true ∧ reg8 .ah start = 0x00#8 ∧
    (reg8 .al (start [(.ax, 0x0093#16)])).extractLsb' 0 7 = 0x13#7 ∧ (reg8 .al (start [(.ax, 0x0008#16)])).extractLsb' 0 7 = 0x08#7 ∧
    (let s : State := { start [(.ax, 0x0F00#16)] with params := { Params.default with int10ShortCircuit := [0x00#8, 0x0F#8, 0xFF#8] } }
     s.params.int10ShortCircuit.contains (reg8 .ah s) = true ∧ reg8 .ah s = 0x0F#8 ∧
       s.params.int10ShortCircuit.contains (reg8 .ah (setReg16 .ax 0xFF00#16 s)) = true ∧ reg8 .ah (setReg16 .ax 0xFF00#16 s) ∉ [0x00#8, 0x0F#8]) := by decide

end Sys2Proof.Tests
end

section
/-! PROOFS. The registers, the FLAGS word and the power-on state (spec/10_state.md). -/

namespace Sys2Proof.Machine

/-! ## Byte registers -/

/-- R31: AX, CX, DX and BX are their byte registers, the high one above the low one. -/
theorem reg16_eq_append_reg8 (s : State) :
    reg16 .ax s = reg8 .ah s ++ reg8 .al s ∧ reg16 .cx s = reg8 .ch s ++ reg8 .cl s ∧
      reg16 .dx s = reg8 .dh s ++ reg8 .dl s ∧ reg16 .bx s = reg8 .bh s ++ reg8 .bl s :=
  ⟨(highByte_append_lowByte _).symm, (highByte_append_lowByte _).symm, (highByte_append_lowByte _).symm,
    (highByte_append_lowByte _).symm⟩

theorem reg16_setReg16_other {j k : Reg16} (h : k ≠ j) (v : Word) (s : State) :
    reg16 k (setReg16 j v s) = reg16 k s := by rw [reg16_setReg16, if_neg h]

theorem reg8_setReg8_other {j k : Reg8} (h : k ≠ j) (v : Byte) (s : State) :
    reg8 k (setReg8 j v s) = reg8 k s := by rw [reg8_setReg8, if_neg h]

theorem reg16_setReg8_other {j : Reg8} {k : Reg16} (h : k ≠ fullReg j) (v : Byte) (s : State) :
    reg16 k (setReg8 j v s) = reg16 k s := by rw [reg16_setReg8, if_neg h]

/-- Settles O16, from what each register reads after a write to a word or a byte register. -/
theorem byteRegistersAreHalves : Obligations.ByteRegistersAreHalves := by
  intro s v x
  refine ⟨reg16_eq_append_reg8 s, fun k => ⟨reg8_setReg8_same s k v, ?_, ?_⟩,
    fun r => ⟨reg16_setReg16_same s r x, ?_⟩, ?low, ?high⟩
  · exact fun j hj => reg8_setReg8_other hj v s
  · exact fun r hr => reg16_setReg8_other hr v s
  · exact fun j hj => reg16_setReg16_other hj x s
  case low => exact reg8_setReg16 s .ax .al x
  case high => exact reg8_setReg16 s .ax .ah x

/-! ## The FLAGS word -/

/-- The bit of the FLAGS word a flag stands at (R35). -/
def Flag.bit : Flag → Nat
  | .cf => 0 | .pf => 2 | .af => 4 | .zf => 6 | .sf => 7
  | .tf => 8 | .if => 9 | .df => 10 | .of => 11

theorem Flag.bit_lt (k : Flag) : k.bit < 16 := by cases k <;> decide

/-- The bits of the FLAGS word no flag stands at (R35). -/
def reservedBits : List Nat := [1, 3, 5, 12, 13, 14, 15]

theorem exists_flag_bit_or_reserved :
    ∀ i < 16, (∃ k ∈ [Flag.cf, .pf, .af, .zf, .sf, .tf, .if, .df, .of], k.bit = i) ∨ i ∈ reservedBits := by
  decide

/-- Two words that agree at every flag's bit and at every reserved bit are equal. -/
theorem word_ext_flags {v w : Word} (hflag : ∀ k : Flag, v.getLsbD k.bit = w.getLsbD k.bit)
    (hres : ∀ i ∈ reservedBits, v.getLsbD i = w.getLsbD i) : v = w := by
  refine BitVec.eq_of_getLsbD_eq fun i hi => ?_
  obtain ⟨k, -, rfl⟩ | hr := exists_flag_bit_or_reserved i hi
  · exact hflag k
  · exact hres i hr

/-- Flags that agree by name are equal. -/
theorem Flags.ext_get {f g : Flags} (h : ∀ k, f.get k = g.get k) : f = g := by
  cases f
  cases g
  rw [Flags.mk.injEq]
  exact ⟨h .cf, h .pf, h .af, h .zf, h .sf, h .tf, h .if, h .df, h .of⟩

@[simp] theorem Flags.get_ofWord (v : Word) (k : Flag) : (Flags.ofWord v).get k = v.getLsbD k.bit := by
  cases k <;> rfl

/-- The sixteen places of the FLAGS word, bit 0 first, the reserved ones clear (R35). -/
def Flags.bits (f : Flags) : List Bool :=
  [f.CF, false, f.PF, false, f.AF, false, f.ZF, f.SF, f.TF, f.IF, f.DF, f.OF, false, false, false, false]

theorem Flags.length_bits (f : Flags) : f.bits.length = 16 := rfl

theorem Flags.toWord_eq_ofBoolListLE (image : Word) (f : Flags) :
    f.toWord image = (image &&& flagsReservedMask) ||| (BitVec.ofBoolListLE f.bits).cast f.length_bits := rfl

theorem Flags.getLsbD_toWord (image : Word) (f : Flags) (i : Nat) :
    (f.toWord image).getLsbD i = (image.getLsbD i && flagsReservedMask.getLsbD i || f.bits.getD i false) := by
  rw [Flags.toWord_eq_ofBoolListLE, BitVec.getLsbD_or, BitVec.getLsbD_and, BitVec.getLsbD_cast,
    BitVec.getLsbD_ofBoolListLE]

theorem Flags.getD_bits_bit (f : Flags) (k : Flag) : f.bits.getD k.bit false = f.get k := by cases k <;> rfl

theorem Flags.getD_bits_reserved (f : Flags) {i : Nat} (hi : i ∈ reservedBits) : f.bits.getD i false = false := by
  unfold reservedBits at hi
  fin_cases hi <;> rfl

@[simp] theorem getLsbD_flagsReservedMask_bit (k : Flag) : flagsReservedMask.getLsbD k.bit = false := by
  cases k <;> rfl

theorem getLsbD_flagsReservedMask_reserved : ∀ i ∈ reservedBits, flagsReservedMask.getLsbD i = true := by decide

/-- R36: the image does not reach a flag's bit. -/
@[simp] theorem Flags.getLsbD_toWord_bit (image : Word) (f : Flags) (k : Flag) :
    (f.toWord image).getLsbD k.bit = f.get k := by
  rw [Flags.getLsbD_toWord, getLsbD_flagsReservedMask_bit, Bool.and_false, Bool.false_or, Flags.getD_bits_bit]

theorem Flags.getLsbD_toWord_reserved (image : Word) (f : Flags) {i : Nat} (hi : i ∈ reservedBits) :
    (f.toWord image).getLsbD i = image.getLsbD i := by
  rw [Flags.getLsbD_toWord, getLsbD_flagsReservedMask_reserved i hi, Bool.and_true, Flags.getD_bits_reserved f hi,
    Bool.or_false]

/-- R36: the word of the flags taken from a word is that word but for the reserved bits, which are the image's. -/
theorem Flags.toWord_ofWord (image v : Word) :
    (Flags.ofWord v).toWord image = (v &&& ~~~flagsReservedMask) ||| (image &&& flagsReservedMask) := by
  refine word_ext_flags (fun k => ?_) (fun i hi => ?_)
  · simp [decide_eq_true k.bit_lt]
  · simp [Flags.getLsbD_toWord_reserved _ _ hi, getLsbD_flagsReservedMask_reserved i hi]

/-- The flags taken from their own word are themselves. -/
theorem Flags.ofWord_toWord (image : Word) (f : Flags) : Flags.ofWord (f.toWord image) = f :=
  Flags.ext_get fun k => by simp

/-- Settles O17, bit by bit: each bit of a word is a flag's or a reserved one. -/
theorem flagsWordHoldsTheFlags : Obligations.FlagsWordHoldsTheFlags := by
  intro s v
  have hbit (k : Flag) : (flagsWord s).getLsbD k.bit = flag k s := Flags.getLsbD_toWord_bit _ s.flags k
  refine ⟨⟨hbit .cf, hbit .pf, hbit .af, hbit .zf, hbit .sf, hbit .tf, hbit .if, hbit .df, hbit .of⟩, ?_, ?_, ?_⟩
  · exact fun i hi => Flags.getLsbD_toWord_reserved _ s.flags hi
  · exact Flags.toWord_ofWord _ v
  · exact congrArg s.setFlags (Flags.ofWord_toWord _ s.flags)

/-! ## Power-on -/

/-- R50: every flag is clear at power-on. -/
@[simp] theorem flag_reset (k : Flag) : flag k State.reset = false := by cases k <;> rfl

/-- R54: the sequencer's one register that is not 0 enables writes to all planes. -/
@[simp] theorem Video.seqReg_reset (i : Nat) : Video.reset.seqReg i = if i = 2 then 0x0F#8 else 0#8 := by
  show Table.get 0#8 [(2, 0x0F#8)] i = _
  simp only [Table.get_cons, Table.get_nil, eq_comm]

/-- R54: the graphics controller's one register that is not 0 is the bit mask, which passes all bits. -/
@[simp] theorem Video.gcReg_reset (i : Nat) : Video.reset.gcReg i = if i = 8 then 0xFF#8 else 0#8 := by
  show Table.get 0#8 [(8, 0xFF#8)] i = _
  simp only [Table.get_cons, Table.get_nil, eq_comm]

/-- Settles O9: an empty table reads as its default everywhere, and the sequencer and the graphics controller list one
register each; the other clauses are closed facts about fields. -/
theorem resetHoldsTheSpecValues : Obligations.ResetHoldsTheSpecValues := by
  refine ⟨?cpu, flag_reset, ?slots, fun _ => rfl, fun _ => rfl, ?pic, fun _ => ⟨rfl, rfl, rfl⟩, ?video, ?files, ?dac, ?host⟩
  case files => exact fun i => ⟨rfl, Video.seqReg_reset i, Video.gcReg_reset i, rfl, rfl, rfl⟩
  all_goals decide

end Sys2Proof.Machine
end

section
/-! PROOFS. Addresses of memory operands, and the ports of no device (spec/20_memory.md; spec/30_encoding.md R181 to
R185), with IN and OUT (spec/40_data_transfer.md R250 to R253). -/

namespace Sys2Proof.Machine

/-! ## Effective addresses -/

/-- R100: the shift by four multiplies by 16, and the sum wraps at 20 bits. -/
theorem toNat_lin (seg off : Word) : (lin seg off).toNat = (seg.toNat * 16 + off.toNat) % 2 ^ 20 := by
  simp only [lin, BitVec.toNat_add, BitVec.toNat_shiftLeft, BitVec.toNat_setWidth, Nat.shiftLeft_eq]
  omega

theorem eaBase_eq_baseSum (b : EaBase) (s : State) : eaBase b s = baseSum b s := by cases b <;> rfl

/-- R182: the bases with BP are the three whose segment is SS. -/
theorem baseSegment_eq_ite (b : EaBase) : baseSegment b = if b ∈ [.bpsi, .bpdi, .bp] then .ss else .ds := by
  cases b <;> rfl

theorem ea_of_segOverride_some {s : State} {k : Sreg} (h : s.segOverride = some k) (m : MemOp) :
    ea m s = lin (sreg k s) (eaOffset m s) := by
  simp [ea, overridden, h]

theorem ea_of_segOverride_none {s : State} (h : s.segOverride = none) (m : MemOp) :
    ea m s = lin (sreg (defaultSegment m) s) (eaOffset m s) := by
  simp [ea, overridden, h]

/-- Settles O18, from the sum of `lin` and the segment of each form of operand. -/
theorem effectiveAddresses : Obligations.EffectiveAddresses := by
  refine ⟨toNat_lin, fun s b d d8 => ?_, fun s m k h => ea_of_segOverride_some h m, fun s m h => ?_⟩
  · simp only [eaOffset, eaBase_eq_baseSum, and_self]
  · rw [ea_of_segOverride_none h]
    cases m <;> simp only [defaultSegment, baseSegment_eq_ite]

/-! ## Ports of no device -/

/-- R121: the block's own ports are 0x20, 0x21 and 0x3B0 to 0x3DF; `portAt` looks at a port's upper twelve bits, then
at its lower four. -/
theorem portAt_eq_other {p : Word} (h20 : p ≠ 0x0020#16) (h21 : p ≠ 0x0021#16)
    (hvideo : p.toNat < 0x3B0 ∨ 0x3DF < p.toNat) : portAt p = .other := by
  have hhi : (p.extractLsb' 4 12).toNat = p.toNat / 16 := by
    rw [BitVec.extractLsb'_toNat, Nat.shiftRight_eq_div_pow]
    omega
  have hlo : (p.extractLsb' 0 4).toNat = p.toNat % 16 := by
    rw [BitVec.extractLsb'_toNat, Nat.shiftRight_zero]
  have h20' : p.toNat ≠ 0x20 := fun h => h20 (BitVec.eq_of_toNat_eq h)
  have h21' : p.toNat ≠ 0x21 := fun h => h21 (BitVec.eq_of_toNat_eq h)
  unfold portAt
  simp only [hhi, hlo]
  split
  · rw [if_neg (by omega), if_neg (by omega)]
  · omega
  · omega
  · omega
  · rfl

/-- R124, for a read. -/
theorem portRead8_of_other {p : Word} (h : portAt p = .other) (s : State) :
    portRead8 p s = if s.params.externalPorts.contains p then draw8 s else (shadowGet p s, s) := by
  unfold portRead8
  rw [h]

/-- R124, for a write: an external port keeps its shadow byte too. -/
theorem portWrite8_of_other {p : Word} (h : portAt p = .other) (v : Byte) (s : State) :
    portWrite8 p v s = shadowSet p v s := by
  unfold portWrite8
  rw [h]

@[simp] theorem shadowGet_shadowSet_same (p : Word) (v : Byte) (s : State) : shadowGet p (shadowSet p v s) = v :=
  Table.get_set_same ..

theorem shadowGet_shadowSet_other {p q : Word} (h : q ≠ p) (v : Byte) (s : State) :
    shadowGet q (shadowSet p v s) = shadowGet q s :=
  Table.get_set_other _ _ _ fun hq => h (BitVec.eq_of_toNat_eq hq)

@[simp] theorem shadowSet_setShadow (p : Word) (v : Byte) (s : State) (t : Table Byte) :
    (shadowSet p v s).setShadow t = s.setShadow t := rfl

/-- Settles O27: such a port is `.other`, where a read and a write are those of the shadow byte. -/
theorem otherPortsUseTheirShadow : Obligations.OtherPortsUseTheirShadow := by
  intro s p v h20 h21 hvideo
  have hp : portAt p = .other := portAt_eq_other h20 h21 hvideo
  rw [portRead8_of_other hp, portWrite8_of_other hp]
  refine ⟨fun hin => ?shadow, fun hext => ?free, shadowGet_shadowSet_same p v s,
    fun q hq => shadowGet_shadowSet_other hq v s, by rw [shadowSet_setShadow, State.setShadow_self]⟩
  case shadow => rw [if_neg (by simpa using hin)]
  case free => rw [if_pos (by simpa using hext), draw8]

/-! ## IN and OUT -/

/-- R250: the immediate port number is zero-extended. -/
theorem setWidth_port (p : Byte) : p.setWidth 16 = 0#8 ++ p := BitVec.setWidth_eq_append (by decide)

theorem exec_inImm (acc : Acc) (p : Byte) (s : State) : exec (.inImm acc p) s = .next (inPort acc (0#8 ++ p) s) := by
  rw [← setWidth_port]
  rfl

theorem exec_inDX (acc : Acc) (s : State) : exec (.inDX acc) s = .next (inPort acc (reg16 .dx s) s) := rfl

theorem exec_outImm (acc : Acc) (p : Byte) (s : State) : exec (.outImm p acc) s = .next (outPort acc (0#8 ++ p) s) := by
  rw [← setWidth_port]
  rfl

theorem exec_outDX (acc : Acc) (s : State) : exec (.outDX acc) s = .next (outPort acc (reg16 .dx s) s) := rfl

theorem inPort_al (p : Word) (s : State) : inPort .al p s = setReg8 .al (portRead8 p s).1 (portRead8 p s).2 := rfl

/-- R122: port p is read first, and port p+1 in the state that leaves. -/
theorem inPort_ax (p : Word) (s : State) : inPort .ax p s =
    setReg16 .ax ((portRead8 (p + 1) (portRead8 p s).2).1 ++ (portRead8 p s).1)
      (portRead8 (p + 1) (portRead8 p s).2).2 := rfl

theorem outPort_al (p : Word) (s : State) : outPort .al p s = portWrite8 p (reg8 .al s) s := rfl

/-- R122: the low byte of AX is AL and its high byte AH. -/
theorem outPort_ax (p : Word) (s : State) :
    outPort .ax p s = portWrite8 (p + 1) (reg8 .ah s) (portWrite8 p (reg8 .al s) s) := rfl

section
variable {s : State} {a : Word} {p : Byte} (h : a = 0#8 ++ p ∨ a = reg16 .dx s) (acc : Acc)
include h

/-- Both forms of IN read the port they name. -/
theorem exec_in : exec (if a = 0#8 ++ p then .inImm acc p else .inDX acc) s = .next (inPort acc a s) := by
  by_cases ha : a = 0#8 ++ p
  · rw [if_pos ha, ha, exec_inImm]
  · rw [if_neg ha, h.resolve_left ha, exec_inDX]

/-- Both forms of OUT write the port they name. -/
theorem exec_out : exec (if a = 0#8 ++ p then .outImm p acc else .outDX acc) s = .next (outPort acc a s) := by
  by_cases ha : a = 0#8 ++ p
  · rw [if_pos ha, ha, exec_outImm]
  · rw [if_neg ha, h.resolve_left ha, exec_outDX]

end

/-- Settles O26: whichever form names the port, IN is `inPort` and OUT is `outPort`, and each of those is its port
accesses with, for IN, one register written after them. -/
theorem inAndOutAccessTheirPorts : Obligations.InAndOutAccessTheirPorts := by
  intro s p a h
  refine ⟨⟨_, exec_in h .al, ?al, ?alFrame⟩, ⟨_, exec_in h .ax, ?ax, ?axFrame⟩, ?outAl, ?outAx⟩
  case al => rw [inPort_al, reg8_setReg8_same]
  case alFrame => exact (Frame.refl _ _).setReg8 (.inl List.mem_cons_self) _
  case ax => rw [inPort_ax, reg16_setReg16_same]
  case axFrame => exact (Frame.refl _ _).setReg16 List.mem_cons_self _
  case outAl => exact (exec_out h .al).trans (by rw [outPort_al])
  case outAx => exact (exec_out h .ax).trans (by rw [outPort_ax])

end Sys2Proof.Machine
end

section
/-! PROOFS. The length of a ModR/M byte with its displacement (spec/30_encoding.md R183). -/

namespace Sys2Proof.Machine

/-- R181: with mod 00, the digit the decoder takes for a direct address is rm = 110. -/
theorem octLow_eq_o6_iff (b : Byte) : octLow b = .o6 ↔ (b.extractLsb' 0 3).toNat = 6 := by
  have h : ∀ rm : BitVec 3, Oct.ofBits rm = .o6 ↔ rm.toNat = 6 := by decide
  exact h _

/-- Settles O5, by the forms of R181: a direct address and a word displacement take two bytes after the ModR/M byte, a
byte displacement takes one, a plain base and a register none. -/
theorem modRMTakesNumBytes : Obligations.ModRMTakesNumBytes := by
  intro b d₁ d₂ rest
  have hmod : (b.extractLsb' 6 2).toNat < 4 := (b.extractLsb' 6 2).isLt
  simp only [modRM, Parser.bind, byte, numBytes, ← octLow_eq_o6_iff]
  generalize (b.extractLsb' 6 2).toNat = mod at hmod
  generalize octLow b = rm
  match mod, hmod with
  | 0, _ =>
    by_cases hrm : rm = .o6
    · subst hrm
      exact ⟨(_, .mem (.direct (d₂ ++ d₁))), rfl⟩
    · simp only [if_neg hrm]
      exact ⟨(_, .mem (.base (.ofOct rm))), rfl⟩
  | 1, _ => exact ⟨(_, .mem (.disp8 (.ofOct rm) d₁)), rfl⟩
  | 2, _ => exact ⟨(_, .mem (.disp16 (.ofOct rm) (d₂ ++ d₁))), rfl⟩
  | 3, _ => exact ⟨(_, .reg rm), rfl⟩

end Sys2Proof.Machine
end

section
/-! PROOFS. The data transfer instructions (spec/40_data_transfer.md R230 to R249 and R254 to R259), with the flag
instructions and those without effect (spec/45_processor_control.md R520 to R530). -/

namespace Sys2Proof.Machine

/-! ## One write after the reads

Most of these instructions are one register, memory or flag write in the state u their reads leave. -/

@[simp] theorem sreg_setSreg_same (s : State) (k : Sreg) (v : Word) : sreg k (setSreg k v s) = v := by
  rw [sreg_setSreg, if_pos rfl]

@[simp] theorem flag_setFlag_same (s : State) (k : Flag) (b : Bool) : flag k (setFlag k b s) = b := by
  rw [flag_setFlag, if_pos rfl]

section
variable {i : Instr} {s u : State} {reads : List Linear}

theorem completes_setReg8 {g : Reg8} {v : Byte} (h : exec i s = .next (setReg8 g v u))
    (hu : Frame { bytes := [g], reads := reads } s u) :
    Completes i s (fun t => reg8 g t = v ∧ Frame { bytes := [g], reads := reads } s t) :=
  ⟨_, h, reg8_setReg8_same u g v, hu.setReg8 (.inl List.mem_cons_self) v⟩

theorem completes_setReg16 {g : Reg16} {v : Word} (h : exec i s = .next (setReg16 g v u))
    (hu : Frame { regs := [g], reads := reads } s u) :
    Completes i s (fun t => reg16 g t = v ∧ Frame { regs := [g], reads := reads } s t) :=
  ⟨_, h, reg16_setReg16_same u g v, hu.setReg16 List.mem_cons_self v⟩

theorem completes_setSreg {k : Sreg} {v : Word} (h : exec i s = .next (setSreg k v u))
    (hu : Frame { sregs := [k], reads := reads } s u) :
    Completes i s (fun t => sreg k t = v ∧ Frame { sregs := [k], reads := reads } s t) :=
  ⟨_, h, sreg_setSreg_same u k v, hu.setSreg List.mem_cons_self v⟩

theorem completes_setFlag {k : Flag} {b : Bool} (h : exec i s = .next (setFlag k b s)) :
    Completes i s (fun t => flag k t = b ∧ Frame { flags := [k] } s t) :=
  ⟨_, h, flag_setFlag_same s k b, (Frame.refl _ s).setFlag List.mem_cons_self b⟩

theorem completes_write8 {a : Linear} {v : Byte} (h : exec i s = .next (write8 a v s)) :
    Completes i s (fun t => SameMemory t (write8 a v s) ∧ Frame { mem := [a] } s t) :=
  ⟨_, h, .refl _, (Frame.refl _ s).write8 List.mem_cons_self v⟩

theorem completes_write16 {a : Linear} {v : Word} (h : exec i s = .next (write16 a v s)) :
    Completes i s (fun t => SameMemory t (write16 a v s) ∧ Frame { mem := wordAt a } s t) :=
  ⟨_, h, .refl _, (Frame.refl _ s).write16 (List.Subset.refl _) v⟩

theorem completes_writeLoc8 {rm : RM8} {v : Byte} (h : exec i s = .next (writeLoc8 (locate rm s) v s)) :
    Completes i s (fun t => ResultAt8 rm v s s t ∧ Frame (dest8 rm s [] []) s t) :=
  ⟨_, h, resultAt8_writeLoc8 rm v (.refl s), (Frame.refl _ s).dest8 v⟩

theorem completes_writeLoc16 {rm : RM16} {v : Word} (h : exec i s = .next (writeLoc16 (locate rm s) v s)) :
    Completes i s (fun t => ResultAt16 rm v s s t ∧ Frame (dest16 rm s [] []) s t) :=
  ⟨_, h, resultAt16_writeLoc16 rm v (.refl s), (Frame.refl _ s).dest16 v⟩

end

/-! ## MOV -/

theorem exec_mov_gbEb (g : Reg8) (rm : RM8) (s : State) :
    exec (.mov (.gbEb g rm)) s = .next (setReg8 g (rm8Value rm s) (afterRead8 rm s)) := by
  show execMov (.gbEb g rm) s = _
  simp only [execMov, readRM8_eq]

theorem exec_mov_gwEw (g : Reg16) (rm : RM16) (s : State) :
    exec (.mov (.gwEw g rm)) s = .next (setReg16 g (rm16Value rm s) (afterRead16 rm s)) := by
  show execMov (.gwEw g rm) s = _
  simp only [execMov, readRM16_eq]

theorem exec_movMoffs_axOw (off : Word) (s : State) :
    exec (.movMoffs (.axOw off)) s = .next (setReg16 .ax (peek16 (moffs off s) s) (touch16 (moffs off s) s)) := by
  show execMovMoffs (.axOw off) s = _
  simp only [execMovMoffs, read16_eq]

theorem exec_movToSreg (k : Sreg) (rm : RM16) (s : State) :
    exec (.movToSreg k rm) s = .next (setSreg k (rm16Value rm s) (afterRead16 rm s)) := by
  show execMovToSreg k rm s = _
  simp only [execMovToSreg, readRM16_eq]

/-- Settles O19: every form is one store, or one load of a register after its operand's read. -/
theorem movStoresItsSource : Obligations.MovStoresItsSource := by
  refine ⟨⟨fun s rm g => ⟨completes_writeLoc8 rfl, ?loadByte⟩,
    fun s rm g => ⟨completes_writeLoc16 rfl, ?loadWord⟩,
    fun s rm i => completes_writeLoc8 rfl, fun s rm i => completes_writeLoc16 rfl,
    fun s r i => completes_setReg8 rfl (.refl _ s), fun s r i => completes_setReg16 rfl (.refl _ s), ?moffs⟩,
    fun s rm k => ⟨completes_writeLoc16 rfl, fun _ => ?loadSreg⟩⟩
  case loadByte => exact completes_setReg8 (exec_mov_gbEb g rm s) (.afterRead8 rm (List.Subset.refl _))
  case loadWord => exact completes_setReg16 (exec_mov_gwEw g rm s) (.afterRead16 rm (List.Subset.refl _))
  case loadSreg => exact completes_setSreg (exec_movToSreg k rm s) (.afterRead16 rm (List.Subset.refl _))
  case moffs =>
    rintro s off _ rfl
    exact ⟨completes_setReg8 rfl ((Frame.refl _ s).touch8 List.mem_cons_self),
      completes_setReg16 (exec_movMoffs_axOw off s) ((Frame.refl _ s).touch16 (List.Subset.refl _)),
      completes_write8 rfl, completes_write16 rfl⟩

/-! ## PUSH -/

/-- R230, for a push in a state that reads have left: SS and SP are those of the instruction's start. -/
theorem pushed_push16 (v : Word) {reads : List Linear} {s u : State} (hsp : reg16 .sp u = reg16 .sp s)
    (hss : sreg .ss u = sreg .ss s)
    (hu : Frame { regs := [.sp], mem := wordAt (stackBelow s), reads := reads } s u) :
    Pushed v reads u s (push16 v u) := by
  have hbelow : stackTop (setReg16 .sp (reg16 .sp u - 2) u) = stackBelow s := by simp [stackTop, stackBelow, hsp, hss]
  refine ⟨?sp, ?mem, hu.push16 List.mem_cons_self ?slot v⟩
  case sp => simp [push16, hsp]
  case mem =>
    simp only [push16, hbelow]
    exact (((MemEq.refl u).setReg16 .sp _).write16 _ v).same
  case slot => rw [hsp, hss, stackBelow]; exact List.Subset.refl _

theorem completes_push16 {i : Instr} {v : Word} {s : State} (h : exec i s = .next (push16 v s)) :
    Completes i s (Pushed v [] s s) :=
  ⟨_, h, pushed_push16 v rfl rfl (.refl _ s)⟩

theorem exec_pushReg_of_ne_sp {r : Reg16} (h : r ≠ .sp) (s : State) :
    exec (.pushReg r) s = .next (push16 (reg16 r s) s) := by
  show execPushReg r s = _
  rw [execPushReg, if_neg h]

theorem exec_pushE (rm : RM16) (s : State) :
    exec (.pushE rm) s = .next (push16 (rm16Value rm s) (afterRead16 rm s)) := by
  show execPushE rm s = _
  simp only [execPushE, readRM16_eq]

/-- Settles O20: every form is one `push16`, only FF /6 after a read. -/
theorem pushesStoreBelowSP : Obligations.PushesStoreBelowSP := by
  intro s
  refine ⟨fun r hr => completes_push16 (exec_pushReg_of_ne_sp hr s), completes_push16 rfl,
    fun k => completes_push16 rfl, fun rm => ⟨_, exec_pushE rm s, ?operand⟩, completes_push16 rfl,
    fun i => completes_push16 rfl, fun i => completes_push16 rfl⟩
  case operand => exact pushed_push16 _ (by simp) (by simp) (.afterRead16 rm (List.Subset.refl _))

/-! ## POP -/

@[simp] theorem pop16_fst (s : State) : (pop16 s).1 = peek16 (stackTop s) s := by rw [pop16_eq]

@[simp] theorem reg16_sp_pop16 (s : State) : reg16 .sp (pop16 s).2 = reg16 .sp s + 2 := by
  rw [pop16_eq, reg16_setReg16_same]

theorem memEq_touch16_pop16 (s : State) : MemEq (touch16 (stackTop s) s) (pop16 s).2 := by
  rw [pop16_eq]
  exact (MemEq.refl _).setReg16 .sp _

@[simp] theorem reg16_popInto_same (r : Reg16) (s : State) : reg16 r (popInto r s) = peek16 (stackTop s) s :=
  (reg16_setReg16_same _ r _).trans (pop16_fst s)

theorem reg16_sp_popInto {r : Reg16} (h : r ≠ .sp) (s : State) : reg16 .sp (popInto r s) = reg16 .sp s + 2 :=
  (reg16_setReg16_other h.symm _ _).trans (reg16_sp_pop16 s)

/-- R238: POP SP leaves SP at the word popped. -/
theorem completes_popInto {i : Instr} {r : Reg16} {s : State} (h : exec i s = .next (popInto r s)) :
    Completes i s (fun t => reg16 r t = peek16 (stackTop s) s ∧ (r ≠ .sp → reg16 .sp t = reg16 .sp s + 2) ∧
      Frame { regs := [r, .sp], reads := wordAt (stackTop s) } s t) :=
  ⟨_, h, reg16_popInto_same r s, fun hr => reg16_sp_popInto hr s,
    ((Frame.refl _ s).pop16 (by simp) (List.Subset.refl _)).setReg16 List.mem_cons_self _⟩

theorem exec_popSreg (k : Sreg) (s : State) :
    exec (.popSreg k) s = .next (setSreg k (peek16 (stackTop s) s) (pop16 s).2) := by
  rw [← pop16_fst]
  rfl

/-- R242: the place is the one the operand had before SP moved. -/
theorem exec_popE (rm : RM16) (s : State) :
    exec (.popE rm) s = .next (writeLoc16 (locate rm s) (peek16 (stackTop s) s) (pop16 s).2) := by
  rw [← pop16_fst]
  rfl

theorem exec_popf (s : State) : exec .popf s = .next (setFlagsWord (peek16 (stackTop s) s) (pop16 s).2) := by
  rw [← pop16_fst]
  rfl

/-- R257: POPF leaves out none of the nine flags. -/
theorem mem_popfFlags (k : Flag) : k ∈ [Flag.cf, .pf, .af, .zf, .sf, .tf, .if, .df, .of] := by
  cases k <;> decide

/-- Settles O21: every form is `pop16`, then one write of the word popped. -/
theorem popsLoadTheStackTop : Obligations.PopsLoadTheStackTop := by
  intro s
  refine ⟨fun r => completes_popInto rfl, fun k _ => ⟨_, exec_popSreg k s, ?sregValue, ?sregSp, ?sregFrame⟩,
    fun r => completes_popInto rfl, fun m => ⟨_, exec_popE (.mem m) s, ?memory, ?memorySp, ?memoryFrame⟩,
    ⟨_, exec_popf s, rfl, ?flagsSp, ?flagsFrame⟩⟩
  case sregValue => exact sreg_setSreg_same _ k _
  case sregSp => rw [reg16_setSreg, reg16_sp_pop16]
  case sregFrame =>
    exact ((Frame.refl _ s).pop16 List.mem_cons_self (List.Subset.refl _)).setSreg List.mem_cons_self _
  case memory => exact ((memEq_touch16_pop16 s).write16 (ea m s) _).same
  case memorySp => exact (reg16_write16 _ .sp _ _).trans (reg16_sp_pop16 s)
  case memoryFrame =>
    exact ((Frame.refl _ s).pop16 List.mem_cons_self (List.Subset.refl _)).write16 (List.Subset.refl _) _
  case flagsSp => rw [reg16_setFlagsWord, reg16_sp_pop16]
  case flagsFrame =>
    exact ((Frame.refl _ s).pop16 List.mem_cons_self (List.Subset.refl _)).setFlags _ fun k hk =>
      absurd (mem_popfFlags k) hk

/-! ## XCHG -/

section
variable {i : Instr} {s : State}

theorem completes_swap_reg8 {j k : Reg8} (h : exec i s = .next (setReg8 k (reg8 j s) (setReg8 j (reg8 k s) s))) :
    Completes i s (fun t => reg8 k t = reg8 j s ∧ reg8 j t = reg8 k s ∧ Frame { bytes := [j, k] } s t) := by
  refine ⟨_, h, reg8_setReg8_same _ k _, ?_, ((Frame.refl _ s).setReg8 (by simp) _).setReg8 (by simp) _⟩
  by_cases hjk : j = k
  · rw [hjk, reg8_setReg8_same]
  · rw [reg8_setReg8_other hjk, reg8_setReg8_same]

theorem completes_swap_reg16 {j k : Reg16} (h : exec i s = .next (setReg16 k (reg16 j s) (setReg16 j (reg16 k s) s))) :
    Completes i s (fun t => reg16 k t = reg16 j s ∧ reg16 j t = reg16 k s ∧ Frame { regs := [j, k] } s t) := by
  refine ⟨_, h, reg16_setReg16_same _ k _, ?_, ((Frame.refl _ s).setReg16 (by simp) _).setReg16 (by simp) _⟩
  by_cases hjk : j = k
  · rw [hjk, reg16_setReg16_same]
  · rw [reg16_setReg16_other hjk, reg16_setReg16_same]

end

theorem exec_xchg_mem8 (m : MemOp) (g : Reg8) (s : State) : exec (.xchg (.b (.mem m) g)) s =
    .next (setReg8 g (peek8 (ea m s) s) (write8 (ea m s) (reg8 g s) (touch8 (ea m s) s))) := by
  rw [← reg8_touch8]
  rfl

theorem exec_xchg_mem16 (m : MemOp) (g : Reg16) (s : State) : exec (.xchg (.w (.mem m) g)) s =
    .next (setReg16 g (peek16 (ea m s) s) (write16 (ea m s) (reg16 g s) (touch16 (ea m s) s))) := by
  show execXchg (.w (.mem m) g) s = _
  simp only [execXchg, locate, readLoc16, writeLoc16, read16_eq, reg16_touch16]

/-- Settles O22: two registers swap; with memory, the read comes first, then the store, then the register. -/
theorem exchangesSwapTheOperands : Obligations.ExchangesSwapTheOperands := by
  intro s
  refine ⟨fun r g => completes_swap_reg8 rfl,
    fun m g => ⟨_, exec_xchg_mem8 m g s, reg8_setReg8_same _ g _, ?mem8, ?frame8⟩,
    fun r g => completes_swap_reg16 rfl,
    fun m g => ⟨_, exec_xchg_mem16 m g s, reg16_setReg16_same _ g _, ?mem16, ?frame16⟩,
    fun r => ?accumulator⟩
  case mem8 => exact ((MemEq.refl _).setReg8 g _).same
  case frame8 =>
    exact (((Frame.refl _ s).touch8 List.mem_cons_self).write8 List.mem_cons_self _).setReg8
      (.inl List.mem_cons_self) _
  case mem16 => exact ((MemEq.refl _).setReg16 g _).same
  case frame16 =>
    exact (((Frame.refl _ s).touch16 (List.Subset.refl _)).write16 (List.Subset.refl _) _).setReg16
      List.mem_cons_self _
  case accumulator =>
    obtain ⟨t, ht, hr, hax, hframe⟩ := completes_swap_reg16 (i := .xchgAX r) (s := s) rfl
    exact ⟨t, ht, hax, hr, hframe⟩

/-! ## LEA, LDS, LES and XLAT -/

theorem loadFar_mem (k : Sreg) (g : Reg16) (m : MemOp) (s : State) : loadFar k g (.mem m) s =
    setSreg k (peek16 (ea m s + 2) s)
      (setReg16 g (peek16 (ea m s) s) (touch16 (ea m s + 2) (touch16 (ea m s) s))) := by
  simp only [loadFar, readFar_eq]

/-- R247, R248: both words are those the instruction's start holds. -/
theorem completes_loadFar {i : Instr} {k : Sreg} {g : Reg16} {m : MemOp} {s : State}
    (h : exec i s = .next (loadFar k g (.mem m) s)) :
    Completes i s (fun t => reg16 g t = peek16 (ea m s) s ∧ sreg k t = peek16 (ea m s + 2) s ∧
      Frame { regs := [g], sregs := [k], reads := wordAt (ea m s) ++ wordAt (ea m s + 2) } s t) := by
  rw [loadFar_mem] at h
  refine ⟨_, h, ?offset, sreg_setSreg_same _ k _, ?frame⟩
  case offset => rw [reg16_setSreg, reg16_setReg16_same]
  case frame =>
    refine ((((Frame.refl _ s).touch16 ?first).touch16 ?second).setReg16 List.mem_cons_self _).setSreg
      List.mem_cons_self _
    case first => exact List.subset_append_left _ _
    case second => exact List.subset_append_right _ _

/-- R249: AL is zero-extended. -/
theorem exec_xlat {s : State} {a : Linear}
    (ha : a = lin (sreg (s.segOverride.getD .ds) s) (reg16 .bx s + (0#8 ++ reg8 .al s))) :
    exec .xlat s = .next (setReg8 .al (peek8 a s) (touch8 a s)) := by
  rw [ha, ← setWidth_port]
  rfl

/-- Settles O23: LEA and XLAT are one register write, LDS and LES are `loadFar`. -/
theorem addressAndTableLoads : Obligations.AddressAndTableLoads := by
  intro s
  refine ⟨fun g m => completes_setReg16 rfl (.refl _ s), fun g m => completes_loadFar rfl,
    fun g m => completes_loadFar rfl, fun a ha => ?xlat⟩
  case xlat => exact completes_setReg8 (exec_xlat ha) ((Frame.refl _ s).touch8 List.mem_cons_self)

/-! ## Flags, sign extension and HLT -/

/-- The flags that SAHF does not write. -/
theorem not_mem_sahf {k : Flag} (h : k ∉ [Flag.sf, .zf, .af, .pf, .cf]) : k ∈ [Flag.of, .df, .if, .tf] := by
  revert h
  cases k <;> decide

/-- R259: a word below the word of its sign is its sign extension. -/
theorem sign_append_eq_signExtend (x : Word) : (if x.msb then 0xFFFF#16 else 0x0000#16) ++ x = x.signExtend 32 := by
  rw [BitVec.signExtend_eq_append_of_le (by decide)]
  rfl

/-- Settles O25: the flag instructions are one flag write each, and CBW and CWD are sign
extensions, which keep the signed value. -/
theorem flagAndSignInstructions : Obligations.FlagAndSignInstructions := by
  intro s
  refine ⟨completes_setReg8 rfl (.refl _ s), ⟨_, rfl, rfl, rfl, rfl, rfl, rfl, ?sahf⟩,
    ⟨_, rfl, ?cbw, (Frame.refl _ s).setReg16 List.mem_cons_self _⟩,
    ⟨_, rfl, ?cwd, (Frame.refl _ s).setReg16 List.mem_cons_self _⟩,
    completes_setFlag rfl, completes_setFlag rfl, completes_setFlag rfl, completes_setFlag rfl, completes_setFlag rfl,
    completes_setFlag rfl, completes_setFlag rfl, ⟨_, rfl, rfl, (Frame.refl _ s).setRun rfl _⟩⟩
  case sahf =>
    refine (Frame.refl _ s).setFlags _ fun k hk => ?_
    have hother := not_mem_sahf hk
    fin_cases hother <;> rfl
  case cbw => rw [reg16_setReg16_same, BitVec.toInt_signExtend_of_le (by decide)]
  case cwd =>
    rw [reg16_setReg16_same, reg16_setReg16_other (by decide), sign_append_eq_signExtend,
      BitVec.toInt_signExtend_of_le (by decide)]

/-! ## No operation -/

/-- Settles O24: each of the three answers the state it was given. -/
theorem noOperationsChangeNothing : Obligations.NoOperationsChangeNothing :=
  fun _ => ⟨rfl, rfl, fun _ _ _ => rfl⟩

end Sys2Proof.Machine
end

section
/-! PROOFS. Addition, subtraction, increment, decrement, negate and complement (spec/41_arithmetic.md R304 to R311;
spec/42_logic_shift.md R375). -/

namespace Sys2Proof.Machine

/-! ## Addition and subtraction -/

theorem addResult_false {w : Nat} (a b : BitVec w) : addResult a b false = a + b := BitVec.add_zero _

theorem subResult_false {w : Nat} (a b : BitVec w) : subResult a b false = a - b := BitVec.sub_zero _

/-- R304. -/
theorem addOp_noCarry_flagOp (s : State) (w : Nat) (a b : BitVec w) :
    FlagOp arithFlags s (addOp noCarry w a b) (a + b) (AddFlagsAre a b false) :=
  addResult_false a b ▸ addOp_flagOp noCarry (fun _ _ _ => rfl) s w a b

/-- R305. -/
theorem addOp_carryIn_flagOp (s : State) (w : Nat) (a b : BitVec w) :
    FlagOp arithFlags s (addOp carryIn w a b) (addResult a b (flag .cf s)) (AddFlagsAre a b (flag .cf s)) :=
  addOp_flagOp carryIn (fun _ _ h => flag_congr .cf h) s w a b

/-- R306, R308. -/
theorem subOp_noCarry_flagOp (s : State) (w : Nat) (a b : BitVec w) :
    FlagOp arithFlags s (subOp noCarry w a b) (a - b) (SubFlagsAre a b false) :=
  subResult_false a b ▸ subOp_flagOp noCarry (fun _ _ _ => rfl) s w a b

/-- R307. -/
theorem subOp_carryIn_flagOp (s : State) (w : Nat) (a b : BitVec w) :
    FlagOp arithFlags s (subOp carryIn w a b) (subResult a b (flag .cf s)) (SubFlagsAre a b (flag .cf s)) :=
  subOp_flagOp carryIn (fun _ _ h => flag_congr .cf h) s w a b

/-- Settles O35: both are `aluStore`, of the addition without a carry and of the one with CF. -/
theorem additionStoresTheSum : Obligations.AdditionStoresTheSum := fun s f =>
  ⟨⟨_, rfl, aluStore_result f s (addOp_noCarry_flagOp s)⟩, ⟨_, rfl, aluStore_result f s (addOp_carryIn_flagOp s)⟩⟩

/-- Settles O36: SUB and SBB are `aluStore`, and CMP is `aluTest` of SUB's operation. -/
theorem subtractionStoresTheDifference : Obligations.SubtractionStoresTheDifference := fun s f =>
  ⟨⟨_, rfl, aluStore_result f s (subOp_noCarry_flagOp s)⟩, ⟨_, rfl, aluStore_result f s (subOp_carryIn_flagOp s)⟩,
    ⟨_, rfl, aluTest_result f s (subOp_noCarry_flagOp s)⟩⟩

/-! ## Increment and decrement

An addition or subtraction of 1, and CF put back. -/

/-- The five flags INC and DEC write (R309, R310). -/
def incFlags : List Flag := [.pf, .af, .zf, .sf, .of]

theorem mem_incFlags_of_mem_arithFlags {k : Flag} (hk : k ∈ arithFlags) (hcf : k ≠ .cf) : k ∈ incFlags := by
  revert hk hcf
  cases k <;> decide

/-- The other flags are the control flags. -/
theorem mem_controlFlags_of_not_mem_arithFlags {k : Flag} (hk : k ∉ arithFlags) : k ∈ [Flag.tf, .if, .df] := by
  revert hk
  cases k <;> decide

theorem Flags.get_add_other (f : Flags) {w : Nat} (a b : BitVec w) (c : Bool) {k : Flag} (hk : k ∉ arithFlags) :
    (f.add a b c).get k = f.get k := by
  have hcontrol := mem_controlFlags_of_not_mem_arithFlags hk
  fin_cases hcontrol <;> rfl

theorem Flags.get_sub_other (f : Flags) {w : Nat} (a b : BitVec w) (c : Bool) {k : Flag} (hk : k ∉ arithFlags) :
    (f.sub a b c).get k = f.get k := by
  have hcontrol := mem_controlFlags_of_not_mem_arithFlags hk
  fin_cases hcontrol <;> rfl

/-- New arithmetic flags with the old CF change the five flags of INC and DEC alone. -/
theorem Frame.setFlags_keepCarry {w : Writes} {s t : State} (h : Frame w s t) (hw : incFlags ⊆ w.flags) {f : Flags}
    (hf : ∀ k, k ∉ arithFlags → f.get k = flag k t) :
    Frame w s (Machine.setFlag .cf (flag .cf t) (t.setFlags f)) := by
  refine h.setFlags (f.set .cf (flag .cf t)) fun k hk => ?_
  rw [Flags.get_set]
  split
  case isTrue hcf => rw [hcf]
  case isFalse hcf => exact hf k fun ha => hk (hw (mem_incFlags_of_mem_arithFlags ha hcf))

/-- The sign of 1 is clear at every width but 1. -/
theorem msb_one_eq_false {w : Nat} (h : 1 < w) : (1 : BitVec w).msb = false := by
  rw [BitVec.ofNat_eq_ofNat, BitVec.msb_one, decide_eq_false (by omega)]

/-- R309: with the sign of 1 clear, the OF of R300 is INC's. -/
theorem addFlags_incFlagsAre {w : Nat} (hw : 1 < w) (d : BitVec w) (b : Bool) (s : State) :
    IncFlagsAre d (setFlag .cf b (addFlags d 1 false s)) := by
  obtain ⟨-, hof, haf, hzf, hsf, hpf⟩ := addFlags_are d 1 false s
  rw [addResult_false] at hof haf hzf hsf hpf
  rw [msb_one_eq_false hw] at hof
  refine ⟨hof.trans ?_, haf, hzf, hsf, hpf⟩
  cases d.msb <;> simp

/-- R310: with the sign of 1 clear, the OF of R301 is DEC's. -/
theorem subFlags_decFlagsAre {w : Nat} (hw : 1 < w) (d : BitVec w) (b : Bool) (s : State) :
    DecFlagsAre d (setFlag .cf b (subFlags d 1 false s)) := by
  obtain ⟨-, hof, haf, hzf, hsf, hpf⟩ := subFlags_are d 1 false s
  rw [subResult_false] at hof haf hzf hsf hpf
  rw [msb_one_eq_false hw] at hof
  refine ⟨hof.trans ?_, haf, hzf, hsf, hpf⟩
  cases d.msb <;> simp

theorem IncFlagsAre.congr {w : Nat} {d : BitVec w} {s t : State} (h : t.flags = s.flags) (hs : IncFlagsAre d s) :
    IncFlagsAre d t :=
  ⟨(flag_congr _ h).trans hs.of, (flag_congr _ h).trans hs.af, hs.szp.congr h⟩

theorem DecFlagsAre.congr {w : Nat} {d : BitVec w} {s t : State} (h : t.flags = s.flags) (hs : DecFlagsAre d s) :
    DecFlagsAre d t :=
  ⟨(flag_congr _ h).trans hs.of, (flag_congr _ h).trans hs.af, hs.szp.congr h⟩

/-- INC; at width 1, which no operand has, its OF would be another. -/
theorem incOp_flagOp (s : State) (w : Nat) (d : BitVec w) :
    FlagOp incFlags s (incOp w d) (d + 1) (fun t => 1 < w → IncFlagsAre d t) where
  result _ _ := addResult_false d 1
  flagsAre u _ hw := addFlags_incFlagsAre hw d _ u
  memEq u := ((MemEq.refl u).addFlags _ _ _).setFlag _ _
  frame _ _ u hf h := h.setFlags_keepCarry hf fun _ hk => Flags.get_add_other u.flags d 1 false hk
  congr _ _ h hp hw := (hp hw).congr h

/-- DEC, with the same exception. -/
theorem decOp_flagOp (s : State) (w : Nat) (d : BitVec w) :
    FlagOp incFlags s (decOp w d) (d - 1) (fun t => 1 < w → DecFlagsAre d t) where
  result _ _ := subResult_false d 1
  flagsAre u _ hw := subFlags_decFlagsAre hw d _ u
  memEq u := ((MemEq.refl u).subFlags _ _ _).setFlag _ _
  frame _ _ u hf h := h.setFlags_keepCarry hf fun _ hk => Flags.get_sub_other u.flags d 1 false hk
  congr _ _ h hp hw := (hp hw).congr h

/-- An operand is a byte or a word, so a fact about the flags is needed at those widths alone. -/
theorem UnaryResult.of_one_lt {e : EOp} {r : {w : Nat} → BitVec w → BitVec w}
    {p : {w : Nat} → BitVec w → State → Prop} {fs : List Flag} {s t : State}
    (h : UnaryResult e r (fun {w} d t => 1 < w → p d t) fs s t) : UnaryResult e r p fs s t := by
  cases e <;> exact h.imp_right (And.imp_left fun hp => hp (by decide))

/-- INC, on a register and on an rm operand. -/
theorem unaryStore_incOp (e : EOp) (s : State) :
    UnaryResult e (fun d => d + 1) (fun d => IncFlagsAre d) incFlags s (unaryStore incOp e s) :=
  (unaryStore_result e s (incOp_flagOp s)).of_one_lt

/-- DEC, on a register and on an rm operand. -/
theorem unaryStore_decOp (e : EOp) (s : State) :
    UnaryResult e (fun d => d - 1) (fun d => DecFlagsAre d) incFlags s (unaryStore decOp e s) :=
  (unaryStore_result e s (decOp_flagOp s)).of_one_lt

/-! ## Negate and complement -/

/-- R311: the negation is the difference from 0. -/
theorem negOp_neg_flagOp (s : State) (w : Nat) (d : BitVec w) :
    FlagOp arithFlags s (negOp w d) (-d) (SubFlagsAre 0 d false) :=
  (subResult_false 0 d).trans (BitVec.zero_sub d) ▸ negOp_flagOp s w d

/-- R375: NOT gives the complement and leaves the state. -/
theorem notOp_flagOp (s : State) (w : Nat) (d : BitVec w) :
    FlagOp [] s (fun u => (~~~d, u)) (~~~d) (fun _ => True) where
  result _ _ := rfl
  flagsAre _ _ := trivial
  memEq := .refl
  frame _ _ _ _ h := h
  congr _ _ _ _ := trivial

/-- Settles O38: each is `unaryStore` of its operation; the one-byte INC and DEC are those of the register as an rm
operand. -/
theorem unaryOperations : Obligations.UnaryOperations := fun s =>
  ⟨fun r => ⟨⟨_, rfl, unaryStore_incOp (.w (.reg r)) s⟩, ⟨_, rfl, unaryStore_decOp (.w (.reg r)) s⟩⟩,
    fun e => ⟨⟨_, rfl, unaryStore_incOp e s⟩, ⟨_, rfl, unaryStore_decOp e s⟩,
      ⟨_, rfl, unaryStore_result e s (negOp_neg_flagOp s)⟩, ⟨_, rfl, unaryStore_result e s (notOp_flagOp s)⟩⟩⟩

end Sys2Proof.Machine
end

section
/-! PROOFS. Multiplication (spec/41_arithmetic.md R312, R313; spec/46_ext186.md R566). -/

namespace Sys2Proof.Machine

/-! ## Products in twice the width -/

theorem toNat_setWidth_mul_setWidth {w : Nat} (a b : BitVec w) :
    (a.setWidth (w * 2) * b.setWidth (w * 2)).toNat = a.toNat * b.toNat := by
  have hw : w ≤ w * 2 := by omega
  have ha := BitVec.toNat_setWidth_of_le (b := a) hw
  have hb := BitVec.toNat_setWidth_of_le (b := b) hw
  rw [BitVec.toNat_mul_of_lt (by rw [ha, hb]; exact BitVec.toNat_mul_toNat_lt), ha, hb]

theorem toInt_signExtend_mul_signExtend {w : Nat} (hw : 0 < w) (a b : BitVec w) :
    (a.signExtend (w * 2) * b.signExtend (w * 2)).toInt = a.toInt * b.toInt := by
  have hlow : -2 ^ (w * 2 - 2) ≤ a.toInt * b.toInt := BitVec.le_toInt_mul_toInt
  have hhigh : a.toInt * b.toInt ≤ 2 ^ (w * 2 - 2) := BitVec.toInt_mul_toInt_le
  have hpos : (0 : Int) < 2 ^ (w * 2 - 2) := by positivity
  have hpow : ((2 ^ (w * 2) : Nat) : Int) = 4 * 2 ^ (w * 2 - 2) := by
    push_cast
    rw [← pow_sub_mul_pow (2 : Int) (show 2 ≤ w * 2 by omega)]
    ring
  rw [BitVec.toInt_mul, BitVec.toInt_signExtend_of_le (by omega), BitVec.toInt_signExtend_of_le (by omega)]
  exact Int.bmod_eq_of_le_mul_two (by omega) (by omega)

/-- A product fits its low part when the sign extension of that part gives it back. -/
theorem bne_signExtend {n w : Nat} (h : n ≤ w) (p : BitVec w) (lo : BitVec n) :
    (p != lo.signExtend w) = decide (p.toInt ≠ lo.toInt) := by
  simp only [bne, beq_eq_decide, ← decide_not, ← BitVec.toInt_signExtend_of_le (x := lo) h, BitVec.toInt_inj, ne_eq]

/-! ## CF and OF of a product -/

section
variable (b : Bool) (s : State)

@[simp] theorem reg16_mulFlags (k : Reg16) : reg16 k (mulFlags b s) = reg16 k s := by simp [mulFlags]

@[simp] theorem flag_cf_mulFlags : flag .cf (mulFlags b s) = b :=
  (flag_undefine_other _ (by decide)).trans ((flag_setFlag ..).trans (flag_setFlag_same ..))

@[simp] theorem flag_of_mulFlags : flag .of (mulFlags b s) = b :=
  (flag_undefine_other _ (by decide)).trans (flag_setFlag_same ..)

end

theorem Frame.mulFlags {w : Writes} {s t : State} (h : Frame w s t) (hw : arithFlags ⊆ w.flags) (b : Bool) :
    Frame w s (Machine.mulFlags b t) :=
  ((h.setFlag (hw (by decide)) b).setFlag (hw (by decide)) b).undefine
    (List.Subset.trans (by decide) hw)

/-! ## Products in one register and in DX:AX -/

section
variable {i : Instr} {s u : State} {b : Bool} {reads : List Linear}

theorem completes_mulFlags_setReg16 {g : Reg16} {p : Word} (h : exec i s = .next (mulFlags b (setReg16 g p u)))
    (hu : Frame { regs := [g], flags := arithFlags, reads := reads } s u) :
    Completes i s (fun t => reg16 g t = p ∧ flag .cf t = b ∧ flag .of t = b ∧
      Frame { regs := [g], flags := arithFlags, reads := reads } s t) :=
  ⟨_, h, by simp, by simp, by simp, (hu.setReg16 List.mem_cons_self p).mulFlags (List.Subset.refl _) b⟩

theorem completes_mulFlags_setDxAx {p : BitVec 32}
    (h : exec i s = .next (mulFlags b (setReg16 .ax (p.extractLsb' 0 16) (setReg16 .dx (p.extractLsb' 16 16) u))))
    (hu : Frame { regs := [.ax, .dx], flags := arithFlags, reads := reads } s u) :
    Completes i s (fun t => reg16 .dx t ++ reg16 .ax t = p ∧ flag .cf t = b ∧ flag .of t = b ∧
      Frame { regs := [.ax, .dx], flags := arithFlags, reads := reads } s t) := by
  refine ⟨_, h, ?product, flag_cf_mulFlags _ _, flag_of_mulFlags _ _, ?frame⟩
  case product =>
    rw [reg16_mulFlags, reg16_mulFlags, reg16_setReg16_same, reg16_setReg16_other (by decide), reg16_setReg16_same]
    exact BitVec.extractLsb'_append_extractLsb'
  case frame =>
    exact ((hu.setReg16 (by simp) _).setReg16 (by simp) _).mulFlags (List.Subset.refl _) b

end

/-! ## MUL -/

theorem exec_mul_b (rm : RM8) (s : State) {p : Word} (hp : p = (reg8 .al s).setWidth 16 * (rm8Value rm s).setWidth 16) :
    exec (.mul (.b rm)) s = .next (mulFlags (highByte p != 0#8) (setReg16 .ax p (afterRead8 rm s))) := by
  show execMul (.b rm) s = _
  simp only [execMul, readRM8_eq, reg8_afterRead8, hp]

theorem exec_mul_w (rm : RM16) (s : State) {p : BitVec 32}
    (hp : p = (reg16 .ax s).setWidth 32 * (rm16Value rm s).setWidth 32) :
    exec (.mul (.w rm)) s = .next (mulFlags (p.extractLsb' 16 16 != 0#16)
      (setReg16 .ax (p.extractLsb' 0 16) (setReg16 .dx (p.extractLsb' 16 16) (afterRead16 rm s)))) := by
  show execMul (.w rm) s = _
  simp only [execMul, readRM16_eq, reg16_afterRead16, hp]

theorem completes_mul_b (rm : RM8) (s : State) :
    Completes (.mul (.b rm)) s (fun t => (reg16 .ax t).toNat = (reg8 .al s).toNat * (rm8Value rm s).toNat ∧
      flag .cf t = (reg8 .ah t != 0) ∧ flag .of t = (reg8 .ah t != 0) ∧
      Frame { regs := [.ax], flags := arithFlags, reads := rmReads8 rm s } s t) := by
  obtain ⟨t, ht, hax, hcf, hof, hframe⟩ :=
    completes_mulFlags_setReg16 (exec_mul_b rm s rfl) (.afterRead8 rm (List.Subset.refl _))
  rw [← hax] at hcf hof
  refine ⟨t, ht, ?product, hcf, hof, hframe⟩
  case product => exact hax ▸ toNat_setWidth_mul_setWidth _ _

theorem completes_mul_w (rm : RM16) (s : State) :
    Completes (.mul (.w rm)) s (fun t =>
      (reg16 .dx t ++ reg16 .ax t).toNat = (reg16 .ax s).toNat * (rm16Value rm s).toNat ∧
      flag .cf t = (reg16 .dx t != 0) ∧ flag .of t = (reg16 .dx t != 0) ∧
      Frame { regs := [.ax, .dx], flags := arithFlags, reads := rmReads16 rm s } s t) := by
  obtain ⟨t, ht, hp, hcf, hof, hframe⟩ :=
    completes_mulFlags_setDxAx (exec_mul_w rm s rfl) (.afterRead16 rm (List.Subset.refl _))
  rw [← hp, BitVec.extractLsb'_append_eq_left] at hcf hof
  refine ⟨t, ht, ?product, hcf, hof, hframe⟩
  case product => exact hp ▸ toNat_setWidth_mul_setWidth _ _

/-! ## IMUL -/

theorem exec_imul_b (rm : RM8) (s : State) {p : Word}
    (hp : p = (reg8 .al s).signExtend 16 * (rm8Value rm s).signExtend 16) :
    exec (.imul (.b rm)) s =
      .next (mulFlags (decide (p.toInt ≠ (lowByte p).toInt)) (setReg16 .ax p (afterRead8 rm s))) := by
  show execImul (.b rm) s = _
  simp only [execImul, readRM8_eq, reg8_afterRead8, ← hp, bne_signExtend (show 8 ≤ 16 by decide)]

theorem exec_imul_w (rm : RM16) (s : State) {p : BitVec 32}
    (hp : p = (reg16 .ax s).signExtend 32 * (rm16Value rm s).signExtend 32) :
    exec (.imul (.w rm)) s = .next (mulFlags (decide (p.toInt ≠ (p.extractLsb' 0 16).toInt))
      (setReg16 .ax (p.extractLsb' 0 16) (setReg16 .dx (p.extractLsb' 16 16) (afterRead16 rm s)))) := by
  show execImul (.w rm) s = _
  simp only [execImul, readRM16_eq, reg16_afterRead16, ← hp, bne_signExtend (show 16 ≤ 32 by decide)]

/-- R566, v being the immediate's value. -/
theorem exec_imulImm (g : Reg16) (rm : RM16) {k : ImulImm} (s : State) {v p : Int} (hv : (imulImmValue k).toInt = v)
    (hp : p = (rm16Value rm s).toInt * v) : exec (.imulImm g rm k) s =
      .next (mulFlags (decide (p ≠ (BitVec.ofInt 16 p).toInt)) (setReg16 g (BitVec.ofInt 16 p) (afterRead16 rm s))) := by
  show execImulImm g rm k s = _
  simp only [execImulImm, readRM16_eq, hv, ← hp, mulFlags, bne, beq_eq_decide, ← decide_not,
    ne_eq]

theorem completes_imul_b (rm : RM8) (s : State) :
    Completes (.imul (.b rm)) s (fun t => (reg16 .ax t).toInt = (reg8 .al s).toInt * (rm8Value rm s).toInt ∧
      flag .cf t = decide ((reg16 .ax t).toInt ≠ (reg8 .al t).toInt) ∧ flag .of t = flag .cf t ∧
      Frame { regs := [.ax], flags := arithFlags, reads := rmReads8 rm s } s t) := by
  obtain ⟨t, ht, hax, hcf, hof, hframe⟩ :=
    completes_mulFlags_setReg16 (exec_imul_b rm s rfl) (.afterRead8 rm (List.Subset.refl _))
  refine ⟨t, ht, ?product, ?carry, hof.trans hcf.symm, hframe⟩
  case product => exact hax ▸ toInt_signExtend_mul_signExtend (by decide) _ _
  case carry =>
    rw [← hax] at hcf
    exact hcf

theorem completes_imul_w (rm : RM16) (s : State) :
    Completes (.imul (.w rm)) s (fun t =>
      (reg16 .dx t ++ reg16 .ax t).toInt = (reg16 .ax s).toInt * (rm16Value rm s).toInt ∧
      flag .cf t = decide ((reg16 .dx t ++ reg16 .ax t).toInt ≠ (reg16 .ax t).toInt) ∧ flag .of t = flag .cf t ∧
      Frame { regs := [.ax, .dx], flags := arithFlags, reads := rmReads16 rm s } s t) := by
  obtain ⟨t, ht, hp, hcf, hof, hframe⟩ :=
    completes_mulFlags_setDxAx (exec_imul_w rm s rfl) (.afterRead16 rm (List.Subset.refl _))
  refine ⟨t, ht, ?product, ?carry, hof.trans hcf.symm, hframe⟩
  case product => exact hp ▸ toInt_signExtend_mul_signExtend (by decide) _ _
  case carry => rw [hcf, ← hp, BitVec.extractLsb'_append_eq_right]

theorem completes_imulImm (g : Reg16) (rm : RM16) {k : ImulImm} (s : State) {v : Int}
    (hv : (imulImmValue k).toInt = v) : Completes (.imulImm g rm k) s (fun t =>
      reg16 g t = BitVec.ofInt 16 ((rm16Value rm s).toInt * v) ∧
      flag .cf t = decide ((rm16Value rm s).toInt * v ≠ (reg16 g t).toInt) ∧ flag .of t = flag .cf t ∧
      Frame { regs := [g], flags := arithFlags, reads := rmReads16 rm s } s t) := by
  obtain ⟨t, ht, hg, hcf, hof, hframe⟩ :=
    completes_mulFlags_setReg16 (exec_imulImm g rm s hv rfl) (.afterRead16 rm (List.Subset.refl _))
  exact ⟨t, ht, hg, by rw [hcf, hg], hof.trans hcf.symm, hframe⟩

/-- Settles O39: each form writes its product to one register or to DX:AX, then CF and OF. -/
theorem multiplicationsGiveTheProduct : Obligations.MultiplicationsGiveTheProduct := by
  intro s
  refine ⟨fun rm => ⟨completes_mul_b rm s, completes_imul_b rm s⟩,
    fun rm => ⟨completes_mul_w rm s, completes_imul_w rm s⟩, fun g rm k => ?immediate⟩
  cases k with
  | iw i => exact completes_imulImm g rm s rfl
  | ibs i => exact completes_imulImm g rm s (BitVec.toInt_signExtend_of_le (by decide))

end Sys2Proof.Machine
end

section
/-! PROOFS. The decimal adjusts (spec/41_arithmetic.md R316 to R321). -/

namespace Sys2Proof.Machine

/-! ## The flags of a result, with others undefined -/

/-- The flags of R302 hold when the undefined flags are others. -/
theorem szpAre_undefine_szpFlags {ks : List Flag} (hks : ∀ k ∈ [Flag.zf, .sf, .pf], k ∉ ks) {w : Nat} (r : BitVec w)
    (s : State) : SzpAre r (undefine ks (szpFlags r s)) :=
  ⟨flag_undefine_other _ (hks .zf (by decide)), flag_undefine_other _ (hks .sf (by decide)),
    flag_undefine_other _ (hks .pf (by decide))⟩

theorem flag_szpFlags_other {k : Flag} (hk : k ∉ [Flag.zf, .sf, .pf]) {w : Nat} (r : BitVec w) (s : State) :
    flag k (szpFlags r s) = flag k s := by
  revert hk
  cases k <;> simp [szpFlags, flag, Flags.szp, Flags.get]

theorem Frame.undefine_szpFlags {w : Writes} {s t : State} (h : Frame w s t) (hw : arithFlags ⊆ w.flags)
    {ks : List Flag} (hks : ks ⊆ arithFlags) {n : Nat} (r : BitVec n) :
    Frame w s (Machine.undefine ks (Machine.szpFlags r t)) :=
  (h.szpFlags r (List.Subset.trans (by decide) hw)).undefine (List.Subset.trans hks hw)

/-! ## The low digit of AL -/

/-- The low four bits are the remainder by 16. -/
theorem toNat_and_lowDigit (x : Byte) : (x &&& 0x0F#8).toNat = x.toNat % 16 := by
  rw [BitVec.toNat_and]
  exact Nat.and_two_pow_sub_one_eq_mod x.toNat 4

theorem lowDigitAdjust_eq (s : State) :
    lowDigitAdjust s = (decide (9 < (reg8 .al s).toNat % 16) || flag .af s) := by
  rw [lowDigitAdjust, toNat_and_lowDigit]

/-! ## DAA and DAS -/

/-- A byte at AL with AF, CF and the flags of the byte, as DAA and DAS end. -/
theorem completes_decimalAdjust {i : Instr} {s : State} {v : Byte} {af cf : Bool}
    (h : exec i s = .next (undefine [.of] (szpFlags v (setFlag .cf cf (setFlag .af af (setReg8 .al v s)))))) :
    Completes i s (fun t => reg8 .al t = v ∧ flag .af t = af ∧ flag .cf t = cf ∧ SzpAre (reg8 .al t) t ∧
      Frame { bytes := [.al], flags := arithFlags } s t) := by
  have hal : reg8 .al (undefine [.of] (szpFlags v (setFlag .cf cf (setFlag .af af (setReg8 .al v s))))) = v := by simp
  refine ⟨_, h, hal, ?af, ?cf, ?szp, ?frame⟩
  case af =>
    rw [flag_undefine_other _ (by decide), flag_szpFlags_other (by decide), flag_setFlag, if_neg (by decide),
      flag_setFlag_same]
  case cf => rw [flag_undefine_other _ (by decide), flag_szpFlags_other (by decide), flag_setFlag_same]
  case szp =>
    rw [hal]
    exact szpAre_undefine_szpFlags (by decide) v _
  case frame =>
    exact ((((Frame.refl _ s).setReg8 (.inl List.mem_cons_self) v).setFlag (by decide) af).setFlag (by decide)
      cf).undefine_szpFlags (List.Subset.refl _) (by decide) v

/-- R316: the two additions as one. -/
theorem daa_value (x : Byte) (low high : Bool) :
    (if low then x + 6 else x) + (if high then 0x60#8 else 0#8) =
      BitVec.ofNat 8 (x.toNat + ((if low then 6 else 0) + (if high then 0x60 else 0))) := by
  split <;> split <;> bv_omega

/-- R317: the two subtractions as one. -/
theorem das_value (x : Byte) (low high : Bool) :
    (if low then x - 6 else x) - (if high then 0x60#8 else 0#8) =
      BitVec.ofInt 8 (x.toNat - ((if low then 6 else 0) + (if high then 0x60 else 0) : Nat)) := by
  split <;> split <;> bv_omega

section
variable {s : State} {low high : Bool} (hlow : low = (decide (9 < (reg8 .al s).toNat % 16) || flag .af s))
  (hhigh : high = (decide (0x99 < (reg8 .al s).toNat) || flag .cf s))
include hlow hhigh

theorem completes_daa : Completes .daa s (fun t =>
    reg8 .al t = BitVec.ofNat 8 ((reg8 .al s).toNat + ((if low then 6 else 0) + (if high then 0x60 else 0))) ∧
      flag .af t = low ∧ flag .cf t = high ∧ SzpAre (reg8 .al t) t ∧
      Frame { bytes := [.al], flags := arithFlags } s t) := by
  rw [← daa_value]
  refine completes_decimalAdjust ?_
  rw [hlow, hhigh, ← lowDigitAdjust_eq]
  rfl

/-- CF is also set when the first subtraction borrows or CF was set before it; in the second case `high` holds. -/
theorem completes_das : Completes .das s (fun t =>
    reg8 .al t = BitVec.ofInt 8 ((reg8 .al s).toNat - ((if low then 6 else 0) + (if high then 0x60 else 0) : Nat)) ∧
      flag .af t = low ∧ flag .cf t = (high || (low && decide ((reg8 .al s).toNat < 6))) ∧ SzpAre (reg8 .al t) t ∧
      Frame { bytes := [.al], flags := arithFlags } s t) := by
  have hcf : (high || (low && decide ((reg8 .al s).toNat < 6))) =
      (high || (low && (flag .cf s || decide ((reg8 .al s).toNat < 6)))) := by
    rw [hhigh]
    cases flag .cf s <;> simp
  rw [← das_value, hcf]
  refine completes_decimalAdjust ?_
  rw [hlow, hhigh, ← lowDigitAdjust_eq]
  rfl

end

/-! ## AAA and AAS -/

section
variable (f g : Byte → Byte) (s : State)

theorem reg8_al_asciiAdjust : reg8 .al (asciiAdjust f g s) =
    (if lowDigitAdjust s then f (reg8 .al s) else reg8 .al s) &&& 0x0F#8 := by
  cases h : lowDigitAdjust s <;> simp [asciiAdjust, h, reg8_setReg8]

theorem reg8_ah_asciiAdjust : reg8 .ah (asciiAdjust f g s) =
    if lowDigitAdjust s then g (reg8 .ah s) else reg8 .ah s := by
  cases h : lowDigitAdjust s <;> simp [asciiAdjust, h, reg8_setReg8]

theorem flag_af_asciiAdjust : flag .af (asciiAdjust f g s) = lowDigitAdjust s := by
  rw [asciiAdjust, flag_undefine_other _ (by decide), flag_setFlag, if_neg (by decide), flag_setFlag_same]

theorem flag_cf_asciiAdjust : flag .cf (asciiAdjust f g s) = lowDigitAdjust s := by
  rw [asciiAdjust, flag_undefine_other _ (by decide), flag_setFlag_same]

theorem frame_asciiAdjust : Frame { regs := [.ax], flags := arithFlags } s (asciiAdjust f g s) := by
  rw [asciiAdjust]
  refine (((Frame.setReg8 ?adjusted (.inr (by decide)) _).setFlag (by decide) _).setFlag (by decide) _).undefine
    (by decide)
  split
  case isTrue => exact ((Frame.refl _ s).setReg8 (.inr (by decide)) _).setReg8 (.inr (by decide)) _
  case isFalse => exact .refl _ s

end

/-- R318: AH goes up by one exactly when AL is adjusted. -/
theorem ite_add_one_eq_add_toNat (x : Byte) (low : Bool) : (if low then x + 1 else x) = x + BitVec.ofNat 8 low.toNat := by
  cases low with
  | true => rfl
  | false => exact (BitVec.add_zero x).symm

/-- R319: AH goes down by one exactly when AL is adjusted. -/
theorem ite_sub_one_eq_sub_toNat (x : Byte) (low : Bool) : (if low then x - 1 else x) = x - BitVec.ofNat 8 low.toNat := by
  cases low with
  | true => rfl
  | false => exact (BitVec.sub_zero x).symm

/-- AAA and AAS, d being what the adjust adds to the low digit. -/
theorem completes_asciiAdjust {i : Instr} {s : State} {f g : Byte → Byte} {low : Bool} {d : Nat} {ah : Byte}
    (h : exec i s = .next (asciiAdjust f g s)) (hlow : low = (decide (9 < (reg8 .al s).toNat % 16) || flag .af s))
    (hf : ∀ x, (f x).toNat % 16 = (x.toNat + d) % 16) (hg : (if low then g (reg8 .ah s) else reg8 .ah s) = ah) :
    Completes i s (fun t => (reg8 .al t).toNat = ((reg8 .al s).toNat + if low then d else 0) % 16 ∧
      reg8 .ah t = ah ∧ flag .af t = low ∧ flag .cf t = low ∧
      Frame { regs := [.ax], flags := arithFlags } s t) := by
  rw [← lowDigitAdjust_eq] at hlow
  subst hlow
  refine ⟨_, h, ?al, (reg8_ah_asciiAdjust f g s).trans hg, flag_af_asciiAdjust f g s, flag_cf_asciiAdjust f g s,
    frame_asciiAdjust f g s⟩
  case al =>
    rw [reg8_al_asciiAdjust, toNat_and_lowDigit]
    split
    case isTrue => exact hf _
    case isFalse => rfl

/-! ## AAM and AAD -/

/-- A byte at AL with its flags, as AAM and AAD end. -/
theorem completes_asciiResult {i : Instr} {s u : State} {v : Byte}
    (h : exec i s = .next (undefine [.of, .af, .cf] (szpFlags v u))) (hal : reg8 .al u = v)
    (hu : Frame { regs := [.ax], flags := arithFlags } s u) :
    Completes i s (fun t => reg8 .al t = v ∧ reg8 .ah t = reg8 .ah u ∧ SzpAre v t ∧
      Frame { regs := [.ax], flags := arithFlags } s t) :=
  ⟨_, h, by simpa using hal, by simp, szpAre_undefine_szpFlags (by decide) v u,
    hu.undefine_szpFlags (List.Subset.refl _) (by decide) v⟩

theorem exec_aam {i : Byte} (hi : i ≠ 0) (s : State) : exec (.aam i) s =
    .next (undefine [.of, .af, .cf] (szpFlags (reg8 .al s % i)
      (setReg8 .al (reg8 .al s % i) (setReg8 .ah (reg8 .al s / i) s)))) :=
  if_neg hi

theorem completes_aam {i : Byte} (hi : i ≠ 0) (s : State) : Completes (.aam i) s (fun t =>
    (reg8 .ah t).toNat = (reg8 .al s).toNat / i.toNat ∧ (reg8 .al t).toNat = (reg8 .al s).toNat % i.toNat ∧
      SzpAre (reg8 .al t) t ∧ Frame { regs := [.ax], flags := arithFlags } s t) := by
  obtain ⟨t, ht, hal, hah, hszp, hframe⟩ := completes_asciiResult (exec_aam hi s) (reg8_setReg8_same ..)
    (((Frame.refl _ s).setReg8 (.inr (by decide)) _).setReg8 (.inr (by decide)) _)
  rw [reg8_setReg8_other (by decide), reg8_setReg8_same] at hah
  exact ⟨t, ht, by rw [hah, BitVec.toNat_udiv], by rw [hal, BitVec.toNat_umod], hal ▸ hszp, hframe⟩

theorem completes_aad (i : Byte) (s : State) : Completes (.aad i) s (fun t =>
    (reg8 .al t).toNat = ((reg8 .al s).toNat + (reg8 .ah s).toNat * i.toNat) % 256 ∧ reg8 .ah t = 0 ∧
      SzpAre (reg8 .al t) t ∧ Frame { regs := [.ax], flags := arithFlags } s t) := by
  obtain ⟨t, ht, hal, hah, hszp, hframe⟩ := completes_asciiResult (i := .aad i) (s := s) rfl
    ((reg8_setReg8_other (by decide) _ _).trans (reg8_setReg8_same ..))
    (((Frame.refl _ s).setReg8 (.inr (by decide)) _).setReg8 (.inr (by decide)) _)
  rw [reg8_setReg8_same] at hah
  refine ⟨t, ht, ?value, hah, hal ▸ hszp, hframe⟩
  rw [hal, BitVec.toNat_add, BitVec.toNat_mul]
  exact Nat.add_mod_mod ..

/-- Settles O42: DAA and DAS end alike, AAA and AAS are `asciiAdjust`, and AAM and AAD end alike. -/
theorem decimalAdjusts : Obligations.DecimalAdjusts := by
  intro s
  refine ⟨completes_daa rfl rfl, completes_das rfl rfl,
    completes_asciiAdjust rfl rfl ?aaaDigit (ite_add_one_eq_add_toNat ..),
    completes_asciiAdjust rfl rfl ?aasDigit (ite_sub_one_eq_sub_toNat ..), fun i hi => completes_aam hi s,
    fun i => completes_aad i s⟩
  case aaaDigit => intro x; bv_omega
  case aasDigit => intro x; bv_omega

end Sys2Proof.Machine
end

section
/-! PROOFS. The logic operations, the shifts and the rotates (spec/42_logic_shift.md R370 to R374 and R376 to R384). -/

namespace Sys2Proof.Machine

/-! ## AND, OR, XOR and TEST -/

/-- TEST ends with the flags of a result, in the state u its operand's read leaves. -/
theorem completes_logicFlags {i : Instr} {s u : State} {reads : List Linear} {w : Nat} {r : BitVec w}
    (h : exec i s = .next (logicFlags r u)) (hu : Frame { flags := arithFlags, reads := reads } s u) :
    Completes i s (fun t => LogicFlagsAre r t ∧ Frame { flags := arithFlags, reads := reads } s t) :=
  ⟨_, h, logicFlags_are r u, hu.logicFlags r (List.Subset.refl _)⟩

theorem exec_test_ebGb (rm : RM8) (g : Reg8) (s : State) :
    exec (.test (.ebGb rm g)) s = .next (logicFlags (rm8Value rm s &&& reg8 g s) (afterRead8 rm s)) := by
  show execTest (.ebGb rm g) s = _
  simp only [execTest, readRM8_eq, reg8_afterRead8]

theorem exec_test_ewGw (rm : RM16) (g : Reg16) (s : State) :
    exec (.test (.ewGw rm g)) s = .next (logicFlags (rm16Value rm s &&& reg16 g s) (afterRead16 rm s)) := by
  show execTest (.ewGw rm g) s = _
  simp only [execTest, readRM16_eq, reg16_afterRead16]

theorem exec_test_ebIb (rm : RM8) (i : Byte) (s : State) :
    exec (.test (.ebIb rm i)) s = .next (logicFlags (rm8Value rm s &&& i) (afterRead8 rm s)) := by
  show execTest (.ebIb rm i) s = _
  simp only [execTest, readRM8_eq]

theorem exec_test_ewIw (rm : RM16) (i : Word) (s : State) :
    exec (.test (.ewIw rm i)) s = .next (logicFlags (rm16Value rm s &&& i) (afterRead16 rm s)) := by
  show execTest (.ewIw rm i) s = _
  simp only [execTest, readRM16_eq]

/-- Settles O43: AND, OR and XOR are `aluStore` of their operation, and TEST is AND's flags after its operand's read. -/
theorem logicOperations : Obligations.LogicOperations := by
  intro s
  refine ⟨fun f => ⟨⟨_, rfl, aluStore_result f s (logicOp_flagOp andBits s)⟩,
      ⟨_, rfl, aluStore_result f s (logicOp_flagOp orBits s)⟩, ⟨_, rfl, aluStore_result f s (logicOp_flagOp xorBits s)⟩⟩,
    fun rm g => ?ebGb, fun rm g => ?ewGw, fun i => completes_logicFlags rfl (.refl _ s),
    fun i => completes_logicFlags rfl (.refl _ s), fun rm i => ?ebIb, fun rm i => ?ewIw⟩
  case ebGb => exact completes_logicFlags (exec_test_ebGb rm g s) (.afterRead8 rm (List.Subset.refl _))
  case ewGw => exact completes_logicFlags (exec_test_ewGw rm g s) (.afterRead16 rm (List.Subset.refl _))
  case ebIb => exact completes_logicFlags (exec_test_ebIb rm i s) (.afterRead8 rm (List.Subset.refl _))
  case ewIw => exact completes_logicFlags (exec_test_ewIw rm i s) (.afterRead16 rm (List.Subset.refl _))

/-! ## A shift or rotate by any count

R377 for all seven operations at once: what `shift` does in terms of `shiftSteps`, whose closed forms come below. -/

theorem MemEq.szpFlags {s t : State} {w : Nat} (h : MemEq s t) (r : BitVec w) : MemEq s (szpFlags r t) := h.setFlags _

/-- CF and OF after n steps: OF has the operation's value after one step and is free after more (R377). -/
def carryAndOverflow (sh : Shifter) (n : Nat) {w : Nat} (x : BitVec w) (p : BitVec w × Bool) (s : State) : State :=
  if n = 1 then setFlag .of (sh.overflow w x p.1 p.2) (setFlag .cf p.2 s) else undefine [.of] (setFlag .cf p.2 s)

section
variable (sh : Shifter) (n : Nat) {w : Nat} (x : BitVec w) (p : BitVec w × Bool) (s : State)

theorem flag_cf_carryAndOverflow : flag .cf (carryAndOverflow sh n x p s) = p.2 := by
  unfold carryAndOverflow
  split
  case isTrue => rw [flag_setFlag, if_neg (by decide), flag_setFlag_same]
  case isFalse => rw [flag_undefine_other _ (by decide), flag_setFlag_same]

theorem flag_of_carryAndOverflow (hn : n = 1) :
    flag .of (carryAndOverflow sh n x p s) = sh.overflow w x p.1 p.2 := by
  rw [carryAndOverflow, if_pos hn, flag_setFlag_same]

theorem memEq_carryAndOverflow : MemEq s (carryAndOverflow sh n x p s) := by
  unfold carryAndOverflow
  split
  case isTrue => exact ((MemEq.refl s).setFlag _ _).setFlag _ _
  case isFalse => exact ((MemEq.refl s).setFlag _ _).undefine _

theorem Frame.carryAndOverflow {ws : Writes} {t : State} (h : Frame ws t s) (hf : [Flag.cf, .of] ⊆ ws.flags) :
    Frame ws t (carryAndOverflow sh n x p s) := by
  have hcf := h.setFlag (hf List.mem_cons_self) p.2
  unfold Machine.carryAndOverflow
  split
  case isTrue => exact hcf.setFlag (hf (by decide)) _
  case isFalse => exact hcf.undefine (List.Subset.trans (by decide) hf)

end

/-- The flags an operation may change (R377). -/
def Shifter.flags (sh : Shifter) : List Flag := if sh.isShift then arithFlags else [.cf, .of]

theorem Shifter.carry_overflow_subset_flags (sh : Shifter) : [Flag.cf, .of] ⊆ sh.flags := by
  unfold Shifter.flags
  split <;> decide

theorem Shifter.flags_of_isShift {sh : Shifter} (h : sh.isShift = true) : sh.flags = arithFlags := if_pos h

/-- The flags after n ≥ 1 steps, p being the operand and CF they give (R377). -/
structure ShiftFlagsAre (sh : Shifter) (n : Nat) {w : Nat} (x : BitVec w) (p : BitVec w × Bool) (t : State) : Prop where
  cf : flag .cf t = p.2
  of : n = 1 → flag .of t = sh.overflow w x p.1 p.2
  szp : sh.isShift = true → SzpAre p.1 t

theorem ShiftFlagsAre.congr {sh : Shifter} {n w : Nat} {x : BitVec w} {p : BitVec w × Bool} {s t : State}
    (h : t.flags = s.flags) (hs : ShiftFlagsAre sh n x p s) : ShiftFlagsAre sh n x p t :=
  ⟨(flag_congr _ h).trans hs.cf, fun hn => (flag_congr _ h).trans (hs.of hn), fun hsh => (hs.szp hsh).congr h⟩

theorem shiftOp_snd (sh : Shifter) (n w : Nat) (x : BitVec w) (s : State) {p : BitVec w × Bool}
    (hp : p = shiftSteps sh n x (flag .cf s)) : (shiftOp sh n w x s).2 =
      if sh.isShift then undefine [.af] (szpFlags p.1 (carryAndOverflow sh n x p s)) else carryAndOverflow sh n x p s := by
  subst hp
  rfl

theorem shiftOp_flagOp (sh : Shifter) (n : Nat) (s : State) (w : Nat) (x : BitVec w) :
    FlagOp sh.flags s (shiftOp sh n w x) (shiftSteps sh n x (flag .cf s)).1
      (ShiftFlagsAre sh n x (shiftSteps sh n x (flag .cf s))) where
  result u hu := by
    rw [← flag_congr .cf hu]
    rfl
  flagsAre u hu := by
    rw [shiftOp_snd sh n w x u rfl, flag_congr .cf hu]
    generalize shiftSteps sh n x (flag .cf s) = p
    have hcf := flag_cf_carryAndOverflow sh n x p u
    have hof := flag_of_carryAndOverflow sh n x p u
    split
    case isTrue =>
      refine ⟨?cf, fun hn => ?of, fun _ => szpAre_undefine_szpFlags (by decide) p.1 _⟩
      case cf => rw [flag_undefine_other _ (by decide), flag_szpFlags_other (by decide), hcf]
      case of => rw [flag_undefine_other _ (by decide), flag_szpFlags_other (by decide), hof hn]
    case isFalse hrot => exact ⟨hcf, hof, fun hsh => absurd hsh hrot⟩
  memEq u := by
    rw [shiftOp_snd sh n w x u rfl]
    have hco := memEq_carryAndOverflow sh n x (shiftSteps sh n x (flag .cf u)) u
    split
    case isTrue => exact (hco.szpFlags _).undefine _
    case isFalse => exact hco
  frame ws t u hf h := by
    rw [shiftOp_snd sh n w x u rfl]
    have hco := h.carryAndOverflow sh n x (shiftSteps sh n x (flag .cf u)) u
      (List.Subset.trans sh.carry_overflow_subset_flags hf)
    split
    case isTrue hsh => exact hco.undefine_szpFlags (Shifter.flags_of_isShift hsh ▸ hf) (by decide) _
    case isFalse => exact hco
  congr _ _ h hp := hp.congr h

/-- A result and flags that agree with the given ones at the widths an operand can have. -/
theorem UnaryResult.imp {e : EOp} {r r' : {w : Nat} → BitVec w → BitVec w}
    {p p' : {w : Nat} → BitVec w → State → Prop} {fs : List Flag} {s t : State} (h : UnaryResult e r p fs s t)
    (hr : ∀ {w : Nat}, 1 < w → ∀ x : BitVec w, r x = r' x)
    (hp : ∀ {w : Nat}, 1 < w → ∀ x : BitVec w, p x t → p' x t) : UnaryResult e r' p' fs s t := by
  cases e with
  | b rm =>
    obtain ⟨hres, hflags, hframe⟩ := h
    have hvalue := hr (show 1 < 8 by decide) (rm8Value rm s)
    exact ⟨(congrArg (ResultAt8 rm · s (afterRead8 rm s) t) hvalue).mp hres, hp (by decide) _ hflags, hframe⟩
  | w rm =>
    obtain ⟨hres, hflags, hframe⟩ := h
    have hvalue := hr (show 1 < 16 by decide) (rm16Value rm s)
    exact ⟨(congrArg (ResultAt16 rm · s (afterRead16 rm s) t) hvalue).mp hres, hp (by decide) _ hflags, hframe⟩

theorem shift_of_shiftCount_ne_zero (sh : Shifter) (e : EOp) {c : ShiftCount} {s : State} {n : Nat}
    (hc : shiftCount c s = n) (hn : n ≠ 0) : shift sh e c s = unaryStore (shiftOp sh n) e s := by
  subst hc
  exact if_neg hn

/-- A count of n ≥ 1: the closed form q of the n steps gives the result and the flags. -/
theorem completes_shift {i : Instr} {sh : Shifter} {e : EOp} {c : ShiftCount} {s : State} {n : Nat}
    (h : exec i s = .next (shift sh e c s)) (hc : shiftCount c s = n) (hn : n ≠ 0)
    (q : {w : Nat} → BitVec w → BitVec w × Bool) {p : {w : Nat} → BitVec w → State → Prop}
    (hq : ∀ {w : Nat}, 1 < w → ∀ x : BitVec w, shiftSteps sh n x (flag .cf s) = q x)
    (hp : ∀ {w : Nat}, 1 < w → ∀ (x : BitVec w) t, ShiftFlagsAre sh n x (q x) t → p x t) :
    Completes i s (UnaryResult e (fun x => (q x).1) p sh.flags s) := by
  rw [shift_of_shiftCount_ne_zero sh e hc hn] at h
  refine ⟨_, h, (unaryStore_result e s (shiftOp_flagOp sh n s)).imp ?result ?flags⟩
  case result => exact fun hw x => congrArg Prod.fst (hq hw x)
  case flags => exact fun hw x ht => hp hw x _ (hq hw x ▸ ht)

/-! ### A count of 0 -/

/-- The bytes the read of an operand of either width touches. -/
def eopReads (e : EOp) (s : State) : List Linear :=
  match e with
  | .b rm => rmReads8 rm s
  | .w rm => rmReads16 rm s

/-- The seven operations are `shift` of their steps. -/
theorem exec_eq_shift_of_mem {i : Instr} {e : EOp} {c : ShiftCount}
    (hi : i ∈ [Instr.rol e c, .ror e c, .rcl e c, .rcr e c, .shl e c, .shr e c, .sar e c]) (s : State) :
    ∃ sh, exec i s = .next (shift sh e c s) := by
  fin_cases hi <;> exact ⟨_, rfl⟩

theorem frame_shift_of_shiftCount_eq_zero (sh : Shifter) (e : EOp) {c : ShiftCount} {s : State}
    (h : shiftCount c s = 0) : Frame { reads := eopReads e s } s (shift sh e c s) := by
  unfold shift
  rw [if_pos h]
  cases e with
  | b rm =>
    simp only [readRM8_eq]
    exact .afterRead8 rm (List.Subset.refl _)
  | w rm =>
    simp only [readRM16_eq]
    exact .afterRead16 rm (List.Subset.refl _)

/-! ## The steps as an iteration -/

/-- One step as a function of operand and CF together. -/
def Shifter.next (sh : Shifter) {w : Nat} (p : BitVec w × Bool) : BitVec w × Bool := sh.step w p.1 p.2

theorem shiftSteps_eq_iterate (sh : Shifter) (n : Nat) {w : Nat} (x : BitVec w) (c : Bool) :
    shiftSteps sh n x c = sh.next^[n] (x, c) := by
  induction n generalizing x c with
  | zero => rfl
  | succ n ih => exact ih _ _

/-- An operation whose step takes the operand x to `f x` and CF to `g x`: after n + 1 steps, CF is what the last step
took from the operand before it. -/
theorem shiftSteps_succ_of_step {sh : Shifter} {w : Nat} {f : BitVec w → BitVec w} {g : BitVec w → Bool}
    (h : ∀ x c, sh.step w x c = (f x, g x)) (n : Nat) (x : BitVec w) (c : Bool) :
    shiftSteps sh (n + 1) x c = (f^[n + 1] x, g (f^[n] x)) := by
  have hfst : Function.Semiconj Prod.fst sh.next f := fun p => congrArg Prod.fst (h p.1 p.2)
  have hn : (sh.next^[n] (x, c)).1 = f^[n] x := hfst.iterate_right n (x, c)
  rw [shiftSteps_eq_iterate, Function.iterate_succ_apply', Function.iterate_succ_apply', Shifter.next, h, hn]

/-- A function of a count that starts at the identity and does one more step for one more count. -/
theorem iterate_eq_of_succ {α : Type} {f : α → α} {F : Nat → α → α} (h0 : ∀ x, F 0 x = x)
    (hs : ∀ n x, F (n + 1) x = f (F n x)) (n : Nat) (x : α) : f^[n] x = F n x := by
  induction n with
  | zero => exact (h0 x).symm
  | succ n ih => rw [Function.iterate_succ_apply', ih, hs]

/-! ## Shifts in closed form -/

theorem iterate_shiftLeft {w : Nat} (n : Nat) (x : BitVec w) : (fun x : BitVec w => x <<< 1)^[n] x = x <<< n :=
  iterate_eq_of_succ (F := fun n (x : BitVec w) => x <<< n) BitVec.shiftLeft_zero
    (fun n x => BitVec.shiftLeft_add x n 1) n x

theorem iterate_ushiftRight {w : Nat} (n : Nat) (x : BitVec w) : (fun x : BitVec w => x >>> 1)^[n] x = x >>> n :=
  iterate_eq_of_succ (F := fun n (x : BitVec w) => x >>> n) BitVec.ushiftRight_zero
    (fun n x => BitVec.shiftRight_add x n 1) n x

theorem iterate_sshiftRight {w : Nat} (n : Nat) (x : BitVec w) :
    (fun x : BitVec w => x.sshiftRight 1)^[n] x = x.sshiftRight n :=
  iterate_eq_of_succ (F := fun n (x : BitVec w) => x.sshiftRight n) (fun _ => BitVec.sshiftRight_zero)
    (fun _ _ => BitVec.sshiftRight_add) n x

/-- `topBit` is the bit at place w - 1 alone. -/
theorem getLsbD_topBit {w i : Nat} (hi : i < w) (b : Bool) : (topBit w b).getLsbD i = (decide (i = w - 1) && b) := by
  cases b with
  | false => simp [topBit]
  | true =>
    rw [topBit, if_pos rfl, BitVec.getLsbD_ofNat, Nat.testBit_two_pow, decide_eq_true hi, Bool.true_and, Bool.and_true]
    exact decide_eq_decide.mpr eq_comm

/-- A step to the right brings b in at the top. -/
theorem getLsbD_ushiftRight_one_or_topBit {w i : Nat} (hi : i < w) (x : BitVec w) (b : Bool) :
    ((x >>> 1) ||| topBit w b).getLsbD i = if i = w - 1 then b else x.getLsbD (1 + i) := by
  rw [BitVec.getLsbD_or, BitVec.getLsbD_ushiftRight, getLsbD_topBit hi]
  split
  case isTrue h => simp [h, BitVec.getLsbD_of_ge x (1 + (w - 1)) (by omega)]
  case isFalse h => simp [h]

/-- R384: the step of SAR. -/
theorem ushiftRight_one_or_topBit_msb {w : Nat} (x : BitVec w) :
    (x >>> 1) ||| topBit w x.msb = x.sshiftRight 1 := by
  refine BitVec.eq_of_getLsbD_eq fun i hi => ?_
  rw [getLsbD_ushiftRight_one_or_topBit hi, BitVec.getLsbD_sshiftRight, decide_eq_false (by omega : ¬ w ≤ i),
    Bool.not_false, Bool.true_and]
  by_cases h : i = w - 1
  · rw [if_pos h, if_neg (by omega)]
  · rw [if_neg h, if_pos (by omega)]

/-- R382: what leaves last is bit w - n of the operand. -/
theorem shiftSteps_shl {n w : Nat} (hn : n ≠ 0) (x : BitVec w) (c : Bool) :
    shiftSteps shlShifter n x c = (x <<< n, decide (n ≤ w) && x.getLsbD (w - n)) := by
  obtain ⟨n, rfl⟩ := Nat.exists_eq_succ_of_ne_zero hn
  rw [shiftSteps_succ_of_step (f := fun x => x <<< 1) (g := BitVec.msb) (fun _ _ => rfl), iterate_shiftLeft,
    iterate_shiftLeft, BitVec.msb_shiftLeft, BitVec.getMsbD_eq_getLsbD, Nat.sub_sub, Nat.add_comm 1 n]
  rfl

/-- R383: what leaves last is bit n - 1 of the operand. -/
theorem shiftSteps_shr {n w : Nat} (hn : n ≠ 0) (x : BitVec w) (c : Bool) :
    shiftSteps shrShifter n x c = (x >>> n, x.getLsbD (n - 1)) := by
  obtain ⟨n, rfl⟩ := Nat.exists_eq_succ_of_ne_zero hn
  rw [shiftSteps_succ_of_step (f := fun x => x >>> 1) (g := fun x => x.getLsbD 0) (fun _ _ => rfl),
    iterate_ushiftRight, iterate_ushiftRight, BitVec.getLsbD_ushiftRight]
  rfl

/-- R384: what leaves last is bit n - 1 of the operand, past its bits a copy of the sign. -/
theorem shiftSteps_sar {n w : Nat} (hw : 0 < w) (hn : n ≠ 0) (x : BitVec w) (c : Bool) :
    shiftSteps sarShifter n x c = (x.sshiftRight n, if n ≤ w then x.getLsbD (n - 1) else x.msb) := by
  obtain ⟨n, rfl⟩ := Nat.exists_eq_succ_of_ne_zero hn
  rw [shiftSteps_succ_of_step (f := fun x => x.sshiftRight 1) (g := fun x => x.getLsbD 0)
      (fun x _ => congrArg (·, x.getLsbD 0) (ushiftRight_one_or_topBit_msb x)),
    iterate_sshiftRight, iterate_sshiftRight, BitVec.getLsbD_sshiftRight, decide_eq_false (by omega : ¬ w ≤ 0)]
  rfl

/-- R382: the carry left after one step is the operand's sign. -/
theorem leftOverflow_shiftLeft_one {w : Nat} (hw : 1 ≤ w) (x : BitVec w) :
    leftOverflow w x (x <<< 1) (decide (1 ≤ w) && x.getLsbD (w - 1)) = (x.msb != (x <<< 1).msb) := by
  rw [leftOverflow, decide_eq_true hw, Bool.true_and, ← BitVec.msb_eq_getLsbD_last, Bool.xor_comm]

/-- Settles O44: a count of 0 reads the operand alone; from 1 on the closed forms of the steps give result and CF. -/
theorem shiftsByCount : Obligations.ShiftsByCount := by
  intro s e c n
  have hc : shiftCount c s = n := rfl
  refine ⟨?count, ?_⟩
  case count => cases c <;> rfl
  clear_value n
  refine ⟨fun hn i hi => ?zero, fun hn => ⟨?shl, ?shr, ?sar⟩⟩
  case zero =>
    obtain ⟨sh, hsh⟩ := exec_eq_shift_of_mem hi s
    have hframe := frame_shift_of_shiftCount_eq_zero sh e (hc.trans hn)
    cases e <;> exact ⟨_, hsh, hframe⟩
  case shl =>
    refine completes_shift rfl hc hn _ (fun _ x => shiftSteps_shl hn x _) fun hw x t ht =>
      ⟨ht.cf, ht.szp rfl, fun h => (ht.of h).trans ?_⟩
    subst h
    exact leftOverflow_shiftLeft_one (by omega) x
  case shr =>
    exact completes_shift rfl hc hn _ (fun _ x => shiftSteps_shr hn x _) fun _ x t ht => ⟨ht.cf, ht.szp rfl, ht.of⟩
  case sar =>
    exact completes_shift rfl hc hn _ (fun hw x => shiftSteps_sar (by omega) hn x _) fun _ x t ht =>
      ⟨ht.cf, ht.szp rfl, ht.of⟩

/-! ## Rotations

What the library leaves out of `rotateLeft` and `rotateRight`: their bits after one place, and that counts add. -/

theorem rotateLeft_zero {w : Nat} (x : BitVec w) : x.rotateLeft 0 = x := by
  rw [BitVec.rotateLeft_def, Nat.zero_mod, BitVec.shiftLeft_zero, Nat.sub_zero, BitVec.ushiftRight_eq_zero le_rfl,
    BitVec.or_zero]

theorem rotateLeft_add {w : Nat} (m n : Nat) (x : BitVec w) : x.rotateLeft (m + n) = (x.rotateLeft m).rotateLeft n := by
  refine BitVec.eq_of_getMsbD_eq fun i hi => ?_
  have hmod : (n + i) % w < w := Nat.mod_lt _ (by omega)
  simp only [BitVec.getMsbD_rotateLeft, hmod, decide_true, Bool.true_and, Nat.add_mod_mod, Nat.add_assoc]

/-- The bit that leaves at the top comes in at the bottom. -/
theorem rotateLeft_one {w : Nat} (hw : 1 < w) (x : BitVec w) : x.rotateLeft 1 = x.shiftConcat x.msb := by
  refine BitVec.eq_of_getLsbD_eq fun i hi => ?_
  rw [BitVec.getLsbD_rotateLeft, BitVec.getLsbD_shiftConcat, Nat.mod_eq_of_lt hw, BitVec.msb_eq_getLsbD_last]
  by_cases h : i = 0
  · simp [h, show 0 < w by omega]
  · simp [h]

theorem getLsbD_rotateRight_eq_mod {w i : Nat} (hi : i < w) (n : Nat) (x : BitVec w) :
    (x.rotateRight n).getLsbD i = x.getLsbD ((n + i) % w) := by
  have hr : n % w < w := Nat.mod_lt n (by omega)
  rw [BitVec.getLsbD_rotateRight, show (n + i) % w = (n % w + i) % w from (Nat.mod_add_mod n w i).symm]
  generalize n % w = r at hr
  by_cases h : i < w - r
  · rw [Nat.mod_eq_of_lt (by omega), decide_eq_true h, cond_true]
  · rw [Nat.mod_eq_sub_mod (by omega), Nat.mod_eq_of_lt (by omega), decide_eq_false h, decide_eq_true hi, cond_false,
      Bool.true_and, show i - (w - r) = r + i - w by omega]

theorem rotateRight_zero {w : Nat} (x : BitVec w) : x.rotateRight 0 = x := by
  rw [BitVec.rotateRight_def, Nat.zero_mod, BitVec.ushiftRight_zero, Nat.sub_zero, BitVec.shiftLeft_eq_zero le_rfl,
    BitVec.or_zero]

theorem rotateRight_add {w : Nat} (m n : Nat) (x : BitVec w) :
    x.rotateRight (m + n) = (x.rotateRight m).rotateRight n := by
  refine BitVec.eq_of_getLsbD_eq fun i hi => ?_
  have hmod : (n + i) % w < w := Nat.mod_lt _ (by omega)
  rw [getLsbD_rotateRight_eq_mod hi, getLsbD_rotateRight_eq_mod hi, getLsbD_rotateRight_eq_mod hmod, Nat.add_mod_mod,
    Nat.add_assoc]

/-- The bit that leaves at the bottom comes in at the top. -/
theorem getLsbD_rotateRight_one {w i : Nat} (hi : i < w) (x : BitVec w) :
    (x.rotateRight 1).getLsbD i = if i = w - 1 then x.getLsbD 0 else x.getLsbD (1 + i) := by
  rw [getLsbD_rotateRight_eq_mod hi]
  split
  case isTrue h => rw [h, show 1 + (w - 1) = w by omega, Nat.mod_self]
  case isFalse h => rw [Nat.mod_eq_of_lt (by omega)]

theorem iterate_rotateLeft {w : Nat} (n : Nat) (x : BitVec w) :
    (fun x : BitVec w => x.rotateLeft 1)^[n] x = x.rotateLeft n :=
  iterate_eq_of_succ (F := fun n (x : BitVec w) => x.rotateLeft n) rotateLeft_zero (fun n x => rotateLeft_add n 1 x) n x

theorem iterate_rotateRight {w : Nat} (n : Nat) (x : BitVec w) :
    (fun x : BitVec w => x.rotateRight 1)^[n] x = x.rotateRight n :=
  iterate_eq_of_succ (F := fun n (x : BitVec w) => x.rotateRight n) rotateRight_zero (fun n x => rotateRight_add n 1 x)
    n x

/-- A step to the left brings c in at the bottom. -/
theorem shiftLeft_one_or_ofNat_toNat {w : Nat} (x : BitVec w) (c : Bool) :
    (x <<< 1) ||| BitVec.ofNat w c.toNat = x.shiftConcat c := by
  refine BitVec.eq_of_getLsbD_eq fun i hi => ?_
  rw [BitVec.getLsbD_or, BitVec.getLsbD_shiftLeft, BitVec.getLsbD_ofNat, BitVec.getLsbD_shiftConcat,
    Nat.testBit_bool_toNat]
  by_cases h : i = 0 <;> simp [h]

/-! ## Rotates of the operand -/

/-- R378: CF is the bit that came in at the bottom. -/
theorem rolShifter_step {w : Nat} (hw : 1 < w) (x : BitVec w) (c : Bool) :
    rolShifter.step w x c = (x.rotateLeft 1, (x.rotateLeft 1).getLsbD 0) := by
  have hx : (x <<< 1) ||| BitVec.ofNat w x.msb.toNat = x.rotateLeft 1 := by
    rw [rotateLeft_one hw, shiftLeft_one_or_ofNat_toNat]
  refine Prod.ext hx ?_
  show x.msb = (x.rotateLeft 1).getLsbD 0
  rw [rotateLeft_one hw, BitVec.getLsbD_shiftConcat, if_pos rfl, decide_eq_true (by omega : 0 < w), Bool.true_and]

/-- R379: CF is the bit that came in at the top. -/
theorem rorShifter_step {w : Nat} (hw : 0 < w) (x : BitVec w) (c : Bool) :
    rorShifter.step w x c = (x.rotateRight 1, (x.rotateRight 1).msb) := by
  refine Prod.ext (BitVec.eq_of_getLsbD_eq fun i hi => ?_) ?_
  · exact (getLsbD_ushiftRight_one_or_topBit hi x _).trans (getLsbD_rotateRight_one hi x).symm
  · show x.getLsbD 0 = (x.rotateRight 1).msb
    rw [BitVec.msb_eq_getLsbD_last, getLsbD_rotateRight_one (by omega), if_pos rfl]

theorem shiftSteps_rol {n w : Nat} (hw : 1 < w) (hn : n ≠ 0) (x : BitVec w) (c : Bool) :
    shiftSteps rolShifter n x c = (x.rotateLeft n, (x.rotateLeft n).getLsbD 0) := by
  obtain ⟨n, rfl⟩ := Nat.exists_eq_succ_of_ne_zero hn
  rw [shiftSteps_succ_of_step (rolShifter_step hw), iterate_rotateLeft, iterate_rotateLeft, ← rotateLeft_add]

theorem shiftSteps_ror {n w : Nat} (hw : 0 < w) (hn : n ≠ 0) (x : BitVec w) (c : Bool) :
    shiftSteps rorShifter n x c = (x.rotateRight n, (x.rotateRight n).msb) := by
  obtain ⟨n, rfl⟩ := Nat.exists_eq_succ_of_ne_zero hn
  rw [shiftSteps_succ_of_step (rorShifter_step hw), iterate_rotateRight, iterate_rotateRight, ← rotateRight_add]

/-! ## Rotates through CF -/

/-- CF above the operand: the w + 1 bits RCL and RCR rotate (R380, R381). -/
def withCarry {w : Nat} (p : BitVec w × Bool) : BitVec (1 + w) := BitVec.ofBool p.2 ++ p.1

theorem msb_withCarry {w : Nat} (p : BitVec w × Bool) : (withCarry p).msb = p.2 := by
  rw [withCarry, BitVec.msb_append, if_neg (by decide), BitVec.msb_ofBool]

theorem setWidth_withCarry {w : Nat} (p : BitVec w × Bool) : (withCarry p).setWidth w = p.1 :=
  BitVec.setWidth_append_eq_right

theorem getLsbD_withCarry {w i : Nat} (hi : i < 1 + w) (p : BitVec w × Bool) :
    (withCarry p).getLsbD i = if i < w then p.1.getLsbD i else p.2 := by
  rw [withCarry, BitVec.getLsbD_append]
  split
  case isTrue => rfl
  case isFalse => rw [BitVec.getLsbD_ofBool, decide_eq_true (by omega : i - w = 0), Bool.true_and]

/-- CF and the operand are what CF above the operand gives back. -/
theorem eq_of_withCarry_eq {w : Nat} {p : BitVec w × Bool} {y : BitVec (1 + w)} (h : withCarry p = y) :
    p = (y.setWidth w, y.msb) := by
  subst h
  exact Prod.ext (setWidth_withCarry p).symm (msb_withCarry p).symm

/-- R380: one step is the rotation of CF and the operand. -/
theorem withCarry_next_rcl {w : Nat} (hw : 0 < w) (p : BitVec w × Bool) :
    withCarry (rclShifter.next p) = (withCarry p).rotateLeft 1 := by
  have hstep : rclShifter.next p = (p.1.shiftConcat p.2, p.1.msb) :=
    congrArg (·, p.1.msb) (shiftLeft_one_or_ofNat_toNat p.1 p.2)
  rw [hstep, rotateLeft_one (by omega), msb_withCarry]
  refine BitVec.eq_of_getLsbD_eq fun i hi => ?_
  rw [getLsbD_withCarry hi, BitVec.getLsbD_shiftConcat, BitVec.getLsbD_shiftConcat, decide_eq_true hi, Bool.true_and,
    getLsbD_withCarry (by omega : i - 1 < 1 + w)]
  by_cases h : i < w
  · rw [if_pos h, decide_eq_true h, Bool.true_and, if_pos (by omega : i - 1 < w)]
  · rw [if_neg h, if_neg (by omega : i ≠ 0), if_pos (by omega : i - 1 < w), show i - 1 = w - 1 by omega]
    exact BitVec.msb_eq_getLsbD_last _

/-- R381: one step is the rotation of CF and the operand. -/
theorem withCarry_next_rcr {w : Nat} (hw : 0 < w) (p : BitVec w × Bool) :
    withCarry (rcrShifter.next p) = (withCarry p).rotateRight 1 := by
  refine BitVec.eq_of_getLsbD_eq fun i hi => ?_
  rw [getLsbD_withCarry hi, getLsbD_rotateRight_one hi]
  by_cases h : i < w
  · rw [if_pos h, if_neg (by omega), getLsbD_withCarry (by omega)]
    refine (getLsbD_ushiftRight_one_or_topBit h _ _).trans ?_
    by_cases htop : i = w - 1
    · rw [if_pos htop, if_neg (by omega)]
    · rw [if_neg htop, if_pos (by omega)]
  · rw [if_neg h, if_pos (by omega), getLsbD_withCarry (by omega), if_pos hw]
    rfl

theorem shiftSteps_rcl {w : Nat} (hw : 0 < w) (n : Nat) (x : BitVec w) (c : Bool) :
    shiftSteps rclShifter n x c =
      (((withCarry (x, c)).rotateLeft n).setWidth w, ((withCarry (x, c)).rotateLeft n).msb) := by
  have hstep : Function.Semiconj withCarry (rclShifter.next (w := w)) (·.rotateLeft 1) := withCarry_next_rcl hw
  rw [shiftSteps_eq_iterate]
  exact eq_of_withCarry_eq ((hstep.iterate_right n (x, c)).trans (iterate_rotateLeft n _))

theorem shiftSteps_rcr {w : Nat} (hw : 0 < w) (n : Nat) (x : BitVec w) (c : Bool) :
    shiftSteps rcrShifter n x c =
      (((withCarry (x, c)).rotateRight n).setWidth w, ((withCarry (x, c)).rotateRight n).msb) := by
  have hstep : Function.Semiconj withCarry (rcrShifter.next (w := w)) (·.rotateRight 1) := withCarry_next_rcr hw
  rw [shiftSteps_eq_iterate]
  exact eq_of_withCarry_eq ((hstep.iterate_right n (x, c)).trans (iterate_rotateRight n _))

/-! ## OF of the rotates by one -/

/-- R381: after one step the top two bits are CF and the sign of the operand. -/
theorem msb_xor_getLsbD_rcr_one {w : Nat} (hw : 1 < w) {x r : BitVec w} {c : Bool}
    (hr : r = ((withCarry (x, c)).rotateRight 1).setWidth w) : (r.msb ^^ r.getLsbD (w - 2)) = (c ^^ x.msb) := by
  have hbit {i : Nat} (hi : i < w) : r.getLsbD i = if 1 + i < w then x.getLsbD (1 + i) else c := by
    rw [hr, BitVec.getLsbD_setWidth, decide_eq_true hi, Bool.true_and, getLsbD_rotateRight_one (by omega),
      if_neg (by omega), getLsbD_withCarry (by omega)]
  rw [BitVec.msb_eq_getLsbD_last, BitVec.msb_eq_getLsbD_last, hbit (by omega), hbit (by omega), if_neg (by omega),
    if_pos (by omega), show 1 + (w - 2) = w - 1 by omega]

/-- Settles O45: each rotate by n is the library's rotation by n, for RCL and RCR of CF above the operand. -/
theorem rotatesByCount : Obligations.RotatesByCount := by
  intro s e c n carry hn
  have hc : shiftCount c s = n := rfl
  clear_value n
  refine ⟨?rol, ?ror, ?rcl, ?rcr⟩
  case rol =>
    refine completes_shift rfl hc hn _ (fun hw x => shiftSteps_rol hw hn x _) fun _ x t ht =>
      ⟨ht.cf, fun h => (ht.of h).trans ?_⟩
    rw [← BitVec.msb_eq_getLsbD_last, ht.cf]
    rfl
  case ror =>
    refine completes_shift rfl hc hn _ (fun hw x => shiftSteps_ror (by omega) hn x _) fun _ x t ht =>
      ⟨ht.cf, fun h => (ht.of h).trans ?_⟩
    rw [← BitVec.msb_eq_getLsbD_last]
    rfl
  case rcl =>
    refine completes_shift rfl hc hn _ (fun hw x => shiftSteps_rcl (by omega) n x _) fun hw x t ht =>
      ⟨ht.cf, fun h => (ht.of h).trans ?_⟩
    show leftOverflow _ x _ _ = _
    rw [ht.cf, leftOverflow, BitVec.msb_setWidth, decide_eq_true (by omega), Bool.true_and]
    rfl
  case rcr =>
    refine completes_shift rfl hc hn _ (fun hw x => shiftSteps_rcr (by omega) n x _) fun hw x t ht =>
      ⟨ht.cf, fun h => (ht.of h).trans ?_⟩
    subst h
    exact msb_xor_getLsbD_rcr_one hw rfl

end Sys2Proof.Machine
end

section
/-! PROOFS. The string instructions and the repeat loop (spec/43_string.md R420 to R427; spec/46_ext186.md R567,
R568). -/

namespace Sys2Proof.Machine

/-! ## The pointers (R420) -/

section
variable (n : Word) (s : State)

@[simp] theorem reg16_si_advanceSI : reg16 .si (advanceSI n s) = reg16 .si s + delta n s := reg16_setReg16_same ..

@[simp] theorem reg16_di_advanceDI : reg16 .di (advanceDI n s) = reg16 .di s + delta n s := reg16_setReg16_same ..

theorem reg16_advanceSI_other {k : Reg16} (h : k ≠ .si) : reg16 k (advanceSI n s) = reg16 k s :=
  reg16_setReg16_other h _ s

theorem reg16_advanceDI_other {k : Reg16} (h : k ≠ .di) : reg16 k (advanceDI n s) = reg16 k s :=
  reg16_setReg16_other h _ s

theorem delta_congr {s t : State} (h : flag .df t = flag .df s) : delta n t = delta n s := by rw [delta, delta, h]

@[simp] theorem reg8_advanceSI (k : Reg8) : reg8 k (advanceSI n s) = reg8 k s := by
  rw [advanceSI, reg8_setReg16, if_neg (by cases k <;> decide)]

@[simp] theorem flag_advanceSI (k : Flag) : flag k (advanceSI n s) = flag k s := flag_congr k (advanceSI_flags s n)

@[simp] theorem flag_df_subFlags {w : Nat} (a b : BitVec w) (c : Bool) : flag .df (subFlags a b c s) = flag .df s :=
  Flags.get_sub_other s.flags a b c (by decide)

@[simp] theorem destAddr_touch8 (a : Linear) : destAddr (touch8 a s) = destAddr s := by simp [destAddr]

@[simp] theorem destAddr_touch16 (a : Linear) : destAddr (touch16 a s) = destAddr s := by simp [destAddr]

@[simp] theorem destAddr_portRead8 (p : Word) : destAddr (portRead8 p s).2 = destAddr s := by
  simp [destAddr, sreg_congr .es (portRead8_sregs s p)]

end

theorem MemEq.advanceSI {s t : State} (h : MemEq s t) (n : Word) : MemEq s (advanceSI n t) := h.setReg16 .si _

theorem MemEq.advanceDI {s t : State} (h : MemEq s t) (n : Word) : MemEq s (advanceDI n t) := h.setReg16 .di _

/-- The comparison's flags stay when the pointers move. -/
theorem subFlagsAre_advanceDI {w : Nat} (a b : BitVec w) (c : Bool) (n : Word) (s : State) :
    SubFlagsAre a b c (advanceDI n (subFlags a b c s)) :=
  (subFlags_are a b c s).congr (advanceDI_flags _ n)

theorem subFlagsAre_advanceBoth {w : Nat} (a b : BitVec w) (c : Bool) (n : Word) (s : State) :
    SubFlagsAre a b c (advanceDI n (advanceSI n (subFlags a b c s))) :=
  (subFlags_are a b c s).congr ((advanceDI_flags _ n).trans (advanceSI_flags _ n))

section
variable {s r u : State} {w : Writes} (n : Word) (hdf : flag .df u = flag .df s) (hu : Frame w r u)
include hdf hu

/-- SI moved in a state u, by the direction of the start s; r is the state the frame counts from. -/
theorem advanceSI_moves (hsi : reg16 .si u = reg16 .si s) (hw : .si ∈ w.regs) :
    reg16 .si (advanceSI n u) = reg16 .si s + delta n s ∧ Frame w r (advanceSI n u) :=
  ⟨by rw [reg16_si_advanceSI, hsi, delta_congr n hdf], hu.setReg16 hw _⟩

theorem advanceDI_moves (hdi : reg16 .di u = reg16 .di s) (hw : .di ∈ w.regs) :
    reg16 .di (advanceDI n u) = reg16 .di s + delta n s ∧ Frame w r (advanceDI n u) :=
  ⟨by rw [reg16_di_advanceDI, hdi, delta_congr n hdf], hu.setReg16 hw _⟩

theorem advanceBoth_moves (hregs : u.regs = s.regs) (hw : [.si, .di] ⊆ w.regs) :
    reg16 .si (advanceDI n (advanceSI n u)) = reg16 .si s + delta n s ∧
      reg16 .di (advanceDI n (advanceSI n u)) = reg16 .di s + delta n s ∧
      Frame w r (advanceDI n (advanceSI n u)) := by
  obtain ⟨hsi, hframe⟩ := advanceSI_moves n hdf hu (reg16_congr .si hregs) (hw (by decide))
  have hdi : reg16 .di (advanceSI n u) = reg16 .di s :=
    (reg16_advanceSI_other n u (by decide)).trans (reg16_congr .di hregs)
  exact ⟨(reg16_advanceDI_other n _ (by decide)).trans hsi,
    advanceDI_moves n ((flag_advanceSI n u .df).trans hdf) hframe hdi (hw (by decide))⟩

end

/-! ## The elements -/

section
variable (s : State)

/-- R422. -/
theorem movsbElem_eq : movsbElem s = advanceDI 1 (advanceSI 1
    (write8 (destAddr s) (peek8 (sourceAddr s) s) (touch8 (sourceAddr s) s))) := by
  simp [movsbElem, read8_eq]

theorem movswElem_eq : movswElem s = advanceDI 2 (advanceSI 2
    (write16 (destAddr s) (peek16 (sourceAddr s) s) (touch16 (sourceAddr s) s))) := by
  simp [movswElem, read16_eq]

/-- R423: the second read's value is the one of the start, for a read changes the latch alone. -/
theorem cmpsbElem_eq : cmpsbElem s = advanceDI 1 (advanceSI 1
    (subFlags (peek8 (sourceAddr s) s) (peek8 (destAddr s) s) false
      (touch8 (destAddr s) (touch8 (sourceAddr s) s)))) := by
  simp [cmpsbElem, read8_eq]

theorem cmpswElem_eq : cmpswElem s = advanceDI 2 (advanceSI 2
    (subFlags (peek16 (sourceAddr s) s) (peek16 (destAddr s) s) false
      (touch16 (destAddr s) (touch16 (sourceAddr s) s)))) := by
  simp [cmpswElem, read16_eq]

/-- R424. -/
theorem scasbElem_eq : scasbElem s = advanceDI 1
    (subFlags (reg8 .al s) (peek8 (destAddr s) s) false (touch8 (destAddr s) s)) := by
  simp [scasbElem, read8_eq]

theorem scaswElem_eq : scaswElem s = advanceDI 2
    (subFlags (reg16 .ax s) (peek16 (destAddr s) s) false (touch16 (destAddr s) s)) := by
  simp [scaswElem, read16_eq]

/-- R425. -/
theorem lodsbElem_eq : lodsbElem s = advanceSI 1
    (setReg8 .al (peek8 (sourceAddr s) s) (touch8 (sourceAddr s) s)) := rfl

theorem lodswElem_eq : lodswElem s = advanceSI 2
    (setReg16 .ax (peek16 (sourceAddr s) s) (touch16 (sourceAddr s) s)) := by
  simp [lodswElem, read16_eq]

/-- R567: the port is read before the store's address is formed, and leaves it. -/
theorem insbElem_eq : insbElem s = advanceDI 1
    (write8 (destAddr s) (portRead8 (reg16 .dx s) s).1 (portRead8 (reg16 .dx s) s).2) := by
  simp [insbElem]

/-- Port DX is read first, and port DX+1 in the state that leaves (R122). -/
theorem inswElem_eq : inswElem s =
    let r := portRead8 (reg16 .dx s) s
    let r' := portRead8 (reg16 .dx s + 1) r.2
    advanceDI 2 (write16 (destAddr s) (r'.1 ++ r.1) r'.2) := by
  simp [inswElem, portRead16]

/-- R568. -/
theorem outsbElem_eq : outsbElem s = advanceSI 1
    (portWrite8 (reg16 .dx s) (peek8 (sourceAddr s) s) (touch8 (sourceAddr s) s)) := by
  simp [outsbElem, read8_eq]

/-- The bytes of the word go to two ports, the low one first (R122). -/
theorem outswElem_eq : outswElem s = advanceSI 2 (portWrite8 (reg16 .dx s + 1) (peek8 (sourceAddr s + 1) s)
    (portWrite8 (reg16 .dx s) (peek8 (sourceAddr s) s) (touch16 (sourceAddr s) s))) := by
  simp [outswElem, read16_eq, portWrite16, peek16, lowByte_append, highByte_append]

end

theorem repeated_of_rep_none {s : State} (h : s.rep = none) (b : Bool) (elem : State → State) :
    repeated b elem s = elem s := by
  rw [repeated, h]

theorem exec_of_rep_none {i : Instr} {b : Bool} {elem : State → State} {s t : State} (h : s.rep = none)
    (hexec : exec i s = .next (repeated b elem s)) (helem : elem s = t) : exec i s = .next t := by
  rw [hexec, repeated_of_rep_none h, helem]

/-- Settles O46: each element is its reads, one store, load, comparison or port access, and the pointers moved. -/
theorem stringElements : Obligations.StringElements := by
  intro s hrep src dst step dx
  refine ⟨⟨_, exec_of_rep_none hrep rfl (movsbElem_eq s), ?movsb⟩,
    ⟨_, exec_of_rep_none hrep rfl (movswElem_eq s), ?movsw⟩,
    ⟨_, exec_of_rep_none hrep rfl (cmpsbElem_eq s), ?cmpsb⟩,
    ⟨_, exec_of_rep_none hrep rfl (cmpswElem_eq s), ?cmpsw⟩,
    ⟨_, exec_of_rep_none hrep rfl (scasbElem_eq s), ?scasb⟩,
    ⟨_, exec_of_rep_none hrep rfl (scaswElem_eq s), ?scasw⟩,
    ⟨_, exec_of_rep_none hrep rfl (lodsbElem_eq s), ?lodsb⟩,
    ⟨_, exec_of_rep_none hrep rfl (lodswElem_eq s), ?lodsw⟩,
    ⟨_, exec_of_rep_none hrep rfl rfl, ?stosb⟩,
    ⟨_, exec_of_rep_none hrep rfl rfl, ?stosw⟩,
    ⟨⟨_, exec_of_rep_none hrep rfl (insbElem_eq s), ?insb⟩,
      ⟨_, exec_of_rep_none hrep rfl (inswElem_eq s), ?insw⟩⟩,
    ⟨_, exec_of_rep_none hrep rfl (outsbElem_eq s), ?outsb⟩,
    ⟨_, exec_of_rep_none hrep rfl (outswElem_eq s), ?outsw⟩⟩
  case movsb =>
    exact ⟨(((MemEq.refl _).advanceSI 1).advanceDI 1).same, advanceBoth_moves 1 (by simp)
      (((Frame.refl _ s).touch8 List.mem_cons_self).write8 List.mem_cons_self _) (by simp) (List.Subset.refl _)⟩
  case movsw =>
    exact ⟨(((MemEq.refl _).advanceSI 2).advanceDI 2).same, advanceBoth_moves 2 (by simp)
      (((Frame.refl _ s).touch16 (List.Subset.refl _)).write16 (List.Subset.refl _) _) (by simp) (List.Subset.refl _)⟩
  case cmpsb =>
    exact ⟨subFlagsAre_advanceBoth _ _ _ 1 _, advanceBoth_moves 1 (by simp)
      ((((Frame.refl _ s).touch8 List.mem_cons_self).touch8 (List.mem_cons_of_mem _ List.mem_cons_self)).subFlags
        _ _ _ (List.Subset.refl _)) (by simp) (List.Subset.refl _)⟩
  case cmpsw =>
    exact ⟨subFlagsAre_advanceBoth _ _ _ 2 _, advanceBoth_moves 2 (by simp)
      ((((Frame.refl _ s).touch16 (List.subset_append_left _ _)).touch16 (List.subset_append_right _ _)).subFlags
        _ _ _ (List.Subset.refl _)) (by simp) (List.Subset.refl _)⟩
  case scasb =>
    exact ⟨subFlagsAre_advanceDI _ _ _ 1 _, advanceDI_moves 1 (by simp)
      (((Frame.refl _ s).touch8 List.mem_cons_self).subFlags _ _ _ (List.Subset.refl _)) (by simp) List.mem_cons_self⟩
  case scasw =>
    exact ⟨subFlagsAre_advanceDI _ _ _ 2 _, advanceDI_moves 2 (by simp)
      (((Frame.refl _ s).touch16 (List.Subset.refl _)).subFlags _ _ _ (List.Subset.refl _)) (by simp)
        List.mem_cons_self⟩
  case lodsb =>
    have hsi : reg16 .si (setReg8 .al (peek8 src s) (touch8 src s)) = reg16 .si s := by
      rw [reg16_setReg8_other (by decide), reg16_touch8]
    exact ⟨(reg8_advanceSI 1 _ .al).trans (reg8_setReg8_same _ .al _), advanceSI_moves 1 (by simp)
      (((Frame.refl _ s).touch8 List.mem_cons_self).setReg8 (.inl List.mem_cons_self) _) hsi List.mem_cons_self⟩
  case lodsw =>
    have hsi : reg16 .si (setReg16 .ax (peek16 src s) (touch16 src s)) = reg16 .si s := by
      rw [reg16_setReg16_other (by decide), reg16_touch16]
    exact ⟨(reg16_advanceSI_other 2 _ (by decide)).trans (reg16_setReg16_same _ .ax _), advanceSI_moves 2 (by simp)
      (((Frame.refl _ s).touch16 (List.Subset.refl _)).setReg16 (List.mem_cons_of_mem _ List.mem_cons_self) _) hsi
        List.mem_cons_self⟩
  case stosb =>
    exact ⟨((MemEq.refl _).advanceDI 1).same,
      advanceDI_moves 1 (by simp) ((Frame.refl _ s).write8 List.mem_cons_self _) (by simp) List.mem_cons_self⟩
  case stosw =>
    exact ⟨((MemEq.refl _).advanceDI 2).same,
      advanceDI_moves 2 (by simp) ((Frame.refl _ s).write16 (List.Subset.refl _) _) (by simp) List.mem_cons_self⟩
  case insb =>
    exact ⟨((MemEq.refl _).advanceDI 1).same,
      advanceDI_moves 1 (by simp) ((Frame.refl _ _).write8 List.mem_cons_self _) (by simp) List.mem_cons_self⟩
  case insw =>
    exact ⟨((MemEq.refl _).advanceDI 2).same,
      advanceDI_moves 2 (by simp) ((Frame.refl _ _).write16 (List.Subset.refl _) _) (by simp) List.mem_cons_self⟩
  case outsb => exact advanceSI_moves 1 (by simp) (.refl _ _) (by simp) List.mem_cons_self
  case outsw => exact advanceSI_moves 2 (by simp) (.refl _ _) (by simp) List.mem_cons_self

/-! ## The repeat slot

No access looks at the repeat slot, so each commutes with an update of it. -/

section
variable (s : State) (r : Option RepPrefix)

@[simp] theorem setReg16_setRep (k : Reg16) (v : Word) : setReg16 k v (s.setRep r) = (setReg16 k v s).setRep r := rfl

@[simp] theorem setReg8_setRep (k : Reg8) (v : Byte) : setReg8 k v (s.setRep r) = (setReg8 k v s).setRep r := rfl

@[simp] theorem subFlags_setRep {w : Nat} (a b : BitVec w) (c : Bool) :
    subFlags a b c (s.setRep r) = (subFlags a b c s).setRep r := rfl

@[simp] theorem advanceSI_setRep (n : Word) : advanceSI n (s.setRep r) = (advanceSI n s).setRep r := rfl

@[simp] theorem advanceDI_setRep (n : Word) : advanceDI n (s.setRep r) = (advanceDI n s).setRep r := rfl

@[simp] theorem sourceAddr_setRep : sourceAddr (s.setRep r) = sourceAddr s := rfl

@[simp] theorem destAddr_setRep : destAddr (s.setRep r) = destAddr s := rfl

@[simp] theorem touch8_setRep (a : Linear) : touch8 a (s.setRep r) = (touch8 a s).setRep r := by
  unfold touch8
  split <;> rfl

@[simp] theorem touch16_setRep (a : Linear) : touch16 a (s.setRep r) = (touch16 a s).setRep r := by simp [touch16]

@[simp] theorem write8_setRep (a : Linear) (v : Byte) : write8 a v (s.setRep r) = (write8 a v s).setRep r := by
  unfold write8
  rw [isReadonly_congr (s := s) a (by simp)]
  split <;> [rfl; (split <;> rfl)]

@[simp] theorem write16_setRep (a : Linear) (v : Word) : write16 a v (s.setRep r) = (write16 a v s).setRep r := by
  simp [write16]

/-- For a port of no device, the repeat slot is set in whichever branch the external ports choose. -/
@[simp] theorem portRead8_setRep (p : Word) :
    portRead8 p (s.setRep r) = ((portRead8 p s).1, (portRead8 p s).2.setRep r) := by
  unfold portRead8
  cases portAt p
  case other =>
    exact (apply_ite (fun x : Byte × State => (x.1, x.2.setRep r)) (s.params.externalPorts.contains p = true)
      (draw8 s) (shadowGet p s, s)).symm
  all_goals rfl

@[simp] theorem portRead16_setRep (p : Word) :
    portRead16 p (s.setRep r) = ((portRead16 p s).1, (portRead16 p s).2.setRep r) := by simp [portRead16]

@[simp] theorem portWrite8_setRep (p : Word) (v : Byte) :
    portWrite8 p v (s.setRep r) = (portWrite8 p v s).setRep r := by
  unfold portWrite8
  split <;> rfl

end

/-! ## The repeat loop (R421) -/

/-- What the loop needs of its element: it leaves CX, which counts the turns, and neither looks at the repeat slot
nor changes it. -/
structure LoopElement (elem : State → State) : Prop where
  cx : ∀ s, reg16 .cx (elem s) = reg16 .cx s
  setRep : ∀ s r, elem (s.setRep r) = (elem s).setRep r

theorem LoopElement.rep {elem : State → State} (h : LoopElement elem) (s : State) : (elem s).rep = s.rep := by
  rw [← State.setRep_self s, h.setRep]
  rfl

/-- The instructions whose repetition ends on ZF as well. -/
def comparing : List Instr := [.cmpsb, .cmpsw, .scasb, .scasw]

/-- An instruction that is the repeat loop of an element, with the early exit when it compares. -/
def IsRepeatLoop (i : Instr) : Prop :=
  ∃ elem, LoopElement elem ∧ ∀ s, exec i s = .next (repeated (decide (i ∈ comparing)) elem s)

theorem repExit_iff (p : RepPrefix) (s : State) : repExit p s = true ↔ flag .zf s = (p == .repne) := by
  cases p with
  | repe => exact (Bool.not_eq_true' _).to_iff
  | repne => exact Iff.rfl

section
variable {elem : State → State} {s : State} {p : RepPrefix} (h : s.rep = some p) (b : Bool)
include h

theorem repeated_of_cx_eq_zero (hcx : reg16 .cx s = 0) : repeated b elem s = s := by
  rw [repeated, h, hcx]
  rfl

/-- One turn of the loop; v is the state after it. -/
theorem repeated_of_cx_ne_zero (he : LoopElement elem) (hcx : reg16 .cx s ≠ 0) {v : State}
    (hv : v = setReg16 .cx (reg16 .cx s - 1) (elem s)) :
    repeated b elem s = if b = true ∧ flag .zf v = (p == .repne) then v else repeated b elem v := by
  have hcount : (reg16 .cx s).toNat = (reg16 .cx s - 1).toNat + 1 := by bv_omega
  have hrep : v.rep = some p := by rw [hv, setReg16_rep, he.rep, h]
  have hvcx : reg16 .cx v = reg16 .cx s - 1 := by rw [hv, reg16_setReg16_same]
  rw [repeated, repeated, h, hrep, hvcx, hcount]
  simp only [repLoop, he.cx, ← hv, Bool.and_eq_true, repExit_iff]

end

/-- R421 for any instruction that is such a loop. -/
theorem IsRepeatLoop.loops {i : Instr} (hi : IsRepeatLoop i) {s : State} {p : RepPrefix} (h : s.rep = some p) :
    (reg16 .cx s = 0 → exec i s = .next s) ∧
      (reg16 .cx s ≠ 0 → ∃ u, exec i (s.setRep none) = .next (u.setRep none) ∧ u.rep = some p ∧
        let v := setReg16 .cx (reg16 .cx s - 1) u
        exec i s = if i ∈ comparing ∧ flag .zf v = (p == .repne) then .next v else exec i v) := by
  obtain ⟨elem, he, hexec⟩ := hi
  refine ⟨fun hcx => ?stop, fun hcx => ⟨elem s, ?element, (he.rep s).trans h, ?turn⟩⟩
  case stop => rw [hexec, repeated_of_cx_eq_zero h _ hcx]
  case element => rw [hexec, repeated_of_rep_none rfl, he.setRep]
  case turn =>
    intro v
    rw [hexec s, hexec v, repeated_of_cx_ne_zero h _ he hcx rfl, apply_ite Host.Outcome.next]
    simp only [decide_eq_true_eq, v]

/-! ## Each string instruction is such a loop -/

section
variable (n : Word) (s : State)

@[simp] theorem reg16_cx_advanceSI : reg16 .cx (advanceSI n s) = reg16 .cx s := reg16_advanceSI_other n s (by decide)

@[simp] theorem reg16_cx_advanceDI : reg16 .cx (advanceDI n s) = reg16 .cx s := reg16_advanceDI_other n s (by decide)

end

theorem movsbElem_loop : LoopElement movsbElem := ⟨by simp [movsbElem_eq], by simp [movsbElem_eq]⟩
theorem movswElem_loop : LoopElement movswElem := ⟨by simp [movswElem_eq], by simp [movswElem_eq]⟩
theorem cmpsbElem_loop : LoopElement cmpsbElem := ⟨by simp [cmpsbElem_eq], by simp [cmpsbElem_eq]⟩
theorem cmpswElem_loop : LoopElement cmpswElem := ⟨by simp [cmpswElem_eq], by simp [cmpswElem_eq]⟩
theorem scasbElem_loop : LoopElement scasbElem := ⟨by simp [scasbElem_eq], by simp [scasbElem_eq]⟩
theorem scaswElem_loop : LoopElement scaswElem := ⟨by simp [scaswElem_eq], by simp [scaswElem_eq]⟩
theorem lodsbElem_loop : LoopElement lodsbElem :=
  ⟨by simp [lodsbElem_eq, reg16_setReg8, fullReg], by simp [lodsbElem_eq]⟩
theorem lodswElem_loop : LoopElement lodswElem := ⟨by simp [lodswElem_eq, reg16_setReg16], by simp [lodswElem_eq]⟩
theorem stosbElem_loop : LoopElement stosbElem := ⟨by simp [stosbElem], by simp [stosbElem]⟩
theorem stoswElem_loop : LoopElement stoswElem := ⟨by simp [stoswElem], by simp [stoswElem]⟩
theorem insbElem_loop : LoopElement insbElem := ⟨by simp [insbElem_eq], by simp [insbElem_eq]⟩
theorem inswElem_loop : LoopElement inswElem := ⟨by simp [inswElem_eq], by simp [inswElem_eq]⟩
theorem outsbElem_loop : LoopElement outsbElem := ⟨by simp [outsbElem_eq], by simp [outsbElem_eq]⟩
theorem outswElem_loop : LoopElement outswElem := ⟨by simp [outswElem_eq], by simp [outswElem_eq]⟩

theorem isRepeatLoop_of_string : ∀ i ∈ [Instr.movsb, .movsw, .cmpsb, .cmpsw, .scasb, .scasw, .lodsb, .lodsw, .stosb,
    .stosw, .insb, .insw, .outsb, .outsw], IsRepeatLoop i := by
  simp only [List.forall_mem_cons, List.not_mem_nil, false_imp_iff, implies_true, and_true]
  exact ⟨⟨_, movsbElem_loop, fun _ => rfl⟩, ⟨_, movswElem_loop, fun _ => rfl⟩,
    ⟨_, cmpsbElem_loop, fun _ => rfl⟩, ⟨_, cmpswElem_loop, fun _ => rfl⟩,
    ⟨_, scasbElem_loop, fun _ => rfl⟩, ⟨_, scaswElem_loop, fun _ => rfl⟩,
    ⟨_, lodsbElem_loop, fun _ => rfl⟩, ⟨_, lodswElem_loop, fun _ => rfl⟩,
    ⟨_, stosbElem_loop, fun _ => rfl⟩, ⟨_, stoswElem_loop, fun _ => rfl⟩,
    ⟨_, insbElem_loop, fun _ => rfl⟩, ⟨_, inswElem_loop, fun _ => rfl⟩,
    ⟨_, outsbElem_loop, fun _ => rfl⟩, ⟨_, outswElem_loop, fun _ => rfl⟩⟩

/-- Settles O47: each of the fourteen is a repeat loop of its element. -/
theorem repeatPrefixesLoop : Obligations.RepeatPrefixesLoop :=
  fun _ _ hrep i hi => (isRepeatLoop_of_string i hi).loops hrep

end Sys2Proof.Machine
end

section
/-! PROOFS. Jumps, conditional jumps and loops (spec/44_control_transfer.md R460 to R464, R473 to R493). -/

namespace Sys2Proof.Machine

/-! ## Targets -/

/-- R460: addition to IP wraps at 16 bits, whatever the sign of the displacement. -/
theorem toNat_add_eq_emod (ip rel : Word) : ((ip + rel).toNat : Int) = (ip.toNat + rel.toInt) % 65536 := by
  rw [BitVec.toInt_eq_toNat_cond, BitVec.toNat_add]
  split <;> omega

theorem toNat_add_signExtend_eq_emod (ip : Word) (rel : Byte) :
    ((ip + rel.signExtend 16).toNat : Int) = (ip.toNat + rel.toInt) % 65536 := by
  rw [toNat_add_eq_emod, BitVec.toInt_signExtend_of_le (by decide)]

/-- The read of a far pointer touches the two bytes of each of its words. -/
theorem Frame.touchFar {w : Writes} {s t : State} (h : Frame w s t) {a : Linear}
    (ha : wordAt a ++ wordAt (a + 2) ⊆ w.reads) : Frame w s (Machine.touch16 (a + 2) (Machine.touch16 a t)) := by
  obtain ⟨hfirst, hsecond⟩ := List.append_subset.mp ha
  exact (h.touch16 hfirst).touch16 hsecond

section
variable {i : Instr} {s u : State} {reads : List Linear}

theorem completes_setIp {v : Word} (h : exec i s = .next (u.setIp v)) (hu : Frame { ip := true, reads := reads } s u) :
    Completes i s (fun t => t.ip = v ∧ Frame { ip := true, reads := reads } s t) :=
  ⟨_, h, rfl, hu.setIp rfl v⟩

theorem completes_jumpFar {off seg : Word} (h : exec i s = .next (jumpFar off seg u))
    (hu : Frame { sregs := [.cs], ip := true, reads := reads } s u) :
    Completes i s (fun t => t.ip = off ∧ sreg .cs t = seg ∧
      Frame { sregs := [.cs], ip := true, reads := reads } s t) :=
  ⟨_, h, rfl, sreg_setSreg_same _ .cs seg, (hu.setIp rfl off).setSreg List.mem_cons_self seg⟩

end

theorem exec_jmpE (rm : RM16) (s : State) :
    exec (.jmpE rm) s = .next ((afterRead16 rm s).setIp (rm16Value rm s)) := by
  show execJmpE rm s = _
  simp only [execJmpE, readRM16_eq]

theorem exec_jmpM_mem (m : MemOp) (s : State) : exec (.jmpM (.mem m)) s =
    .next (jumpFar (peek16 (ea m s) s) (peek16 (ea m s + 2) s) (touch16 (ea m s + 2) (touch16 (ea m s) s))) := by
  show execJmpM (.mem m) s = _
  simp only [execJmpM, readFar_eq]

/-! ## Jumps on a condition -/

section
variable {i : Instr} {c : State → Bool} {b : Bool} {rel : Byte} {s : State}

/-- R473, b being the condition as a statement writes it. -/
theorem exec_of_jumpIf (h : exec i s = .next (jumpIf c rel s)) (hb : c s = b) :
    exec i s = .next (if b then s.setIp (s.ip + rel.signExtend 16) else s) := by
  rw [h, ← hb]
  rfl

/-- R490 to R492: CX counts down before the condition is looked at, and IP is still the instruction's. -/
theorem exec_of_jumpIf_countDown (h : exec i s = .next (jumpIf c rel (countDown s))) (hb : c (countDown s) = b) :
    exec i s = .next (if b then (countDown s).setIp (s.ip + rel.signExtend 16) else countDown s) := by
  rw [h, ← hb]
  rfl

end

theorem negated_condBE (s : State) : negated condBE s = (!flag .cf s && !flag .zf s) := Bool.not_or ..

theorem negated_condL (s : State) : negated condL s = (flag .sf s == flag .of s) := Bool.not_not _

theorem negated_condLE (s : State) : negated condLE s = (!flag .zf s && flag .sf s == flag .of s) :=
  (Bool.not_or ..).trans (congrArg _ (Bool.not_not _))

theorem negated_condCX (s : State) : negated condCX s = (reg16 .cx s == 0) := Bool.not_not _

/-- R490: CX counted down is not 0 when it was not 1. -/
theorem condCX_countDown (s : State) : condCX (countDown s) = (reg16 .cx s != 1) := by
  have h : reg16 .cx s - 1 = 0 ↔ reg16 .cx s = 1 := sub_eq_zero
  rw [condCX, countDown, reg16_setReg16_same, Bool.eq_iff_iff, bne_iff_ne, bne_iff_ne]
  exact h.not

/-- Settles O49: a jump is one write of IP, a far one also of CS, after its operand's reads; a conditional jump is
`jumpIf`, and a loop is `jumpIf` after `countDown`. -/
theorem jumpsGoToTheirTargets : Obligations.JumpsGoToTheirTargets := by
  refine ⟨fun s => ⟨?short, ?near, fun off seg => completes_jumpFar rfl (.refl _ s), ?operand, ?farOperand⟩,
    fun s rel => ?conditional⟩
  case short => exact fun rel => ⟨_, rfl, toNat_add_signExtend_eq_emod s.ip rel, (Frame.refl _ s).setIp rfl _⟩
  case near => exact fun rel => ⟨_, rfl, toNat_add_eq_emod s.ip rel, (Frame.refl _ s).setIp rfl _⟩
  case operand => exact fun rm => completes_setIp (exec_jmpE rm s) (.afterRead16 rm (List.Subset.refl _))
  case farOperand =>
    exact fun m => completes_jumpFar (exec_jmpM_mem m s) ((Frame.refl _ s).touchFar (List.Subset.refl _))
  simp only [List.forall_mem_cons, List.not_mem_nil, false_imp_iff, implies_true, and_true]
  refine ⟨⟨?jo, ?jno, ?jb, ?jnb, ?jz, ?jnz, ?jbe, ?ja, ?js, ?jns, ?jp, ?jnp, ?jl, ?jge, ?jle, ?jg, ?jcxz⟩,
    ?loop, ?loopz, ?loopnz⟩
  case loop => exact exec_of_jumpIf_countDown rfl (condCX_countDown s)
  case loopz => exact exec_of_jumpIf_countDown rfl (congrArg (· && flag .zf s) (condCX_countDown s))
  case loopnz => exact exec_of_jumpIf_countDown rfl (congrArg (· && !flag .zf s) (condCX_countDown s))
  case ja => exact exec_of_jumpIf rfl (negated_condBE s)
  case jge => exact exec_of_jumpIf rfl (negated_condL s)
  case jg => exact exec_of_jumpIf rfl (negated_condLE s)
  case jcxz => exact exec_of_jumpIf rfl (negated_condCX s)
  all_goals exact exec_of_jumpIf rfl rfl

end Sys2Proof.Machine
end

section
/-! PROOFS. Calls and returns (spec/44_control_transfer.md R465 to R472, R497). -/

namespace Sys2Proof.Machine

/-! ## Calls -/

theorem exec_callNear (rel : Word) (s : State) :
    exec (.callNear rel) s = .next ((push16 s.ip s).setIp (s.ip + rel)) := by
  show execCallNear rel s = _
  simp only [execCallNear, push16_ip]

theorem exec_callE (rm : RM16) (s : State) :
    exec (.callE rm) s = .next ((push16 s.ip (afterRead16 rm s)).setIp (rm16Value rm s)) := by
  show execCallE rm s = _
  simp only [execCallE, readRM16_eq, afterRead16_ip]

theorem exec_callM_mem (m : MemOp) (s : State) : exec (.callM (.mem m)) s =
    .next (jumpFar (peek16 (ea m s) s) (peek16 (ea m s + 2) s)
      (pushReturnFar (touch16 (ea m s + 2) (touch16 (ea m s) s)))) := by
  show execCallM (.mem m) s = _
  simp only [execCallM, readFar_eq]

namespace Frame
variable {reads : List Linear} {s w : State} (hw : Frame { reads := reads } s w)
include hw

theorem reg16_of_reads (r : Reg16) : reg16 r w = reg16 r s := hw.regs r List.not_mem_nil nofun

theorem sreg_of_reads (k : Sreg) : sreg k w = sreg k s := hw.sregs k List.not_mem_nil

theorem of_reads {w' : Writes} (h : reads ⊆ w'.reads) : Frame w' s w :=
  hw.mono (by simp) (by simp) (by simp) (by simp) (by simp) h (by simp) (by simp)

end Frame

/-- A push in the state w that the instruction's reads leave. -/
theorem pushed_of_reads (v : Word) {reads : List Linear} {s w : State} (hw : Frame { reads := reads } s w) :
    Pushed v reads w s (push16 v w) :=
  pushed_push16 v (hw.reg16_of_reads .sp) (hw.sreg_of_reads .ss) (hw.of_reads (List.Subset.refl _))

/-- R466, R468: a far call pushes CS and then IP, in the state w that its reads leave. -/
theorem farCall_pushes {i : Instr} {reads : List Linear} {s w : State} {off seg : Word}
    (h : exec i s = .next (jumpFar off seg (pushReturnFar w))) (hw : Frame { reads := reads } s w) :
    ∃ u v, Pushed (sreg .cs s) reads w s u ∧ Pushed s.ip [] u u v ∧
      exec i s = .next (setSreg .cs seg (v.setIp off)) := by
  refine ⟨_, _, pushed_of_reads (sreg .cs s) hw, pushed_of_reads s.ip (.refl _ _), ?_⟩
  rw [h, pushReturnFar, hw.sreg_of_reads .cs, push16_ip, hw.ip rfl]
  rfl

/-! ## The words of the stack -/

/-- The address k bytes above the stack's top. -/
def stackAt (k : Word) (s : State) : Linear := lin (sreg .ss s) (reg16 .sp s + k)

theorem stackTop_eq_stackAt (s : State) : stackTop s = stackAt 0 s := by simp [stackTop, stackAt]

@[simp] theorem sreg_pop16 (k : Sreg) (s : State) : sreg k (pop16 s).2 = sreg k s := sreg_congr k (by simp)

@[simp] theorem peek16_pop16 (a : Linear) (s : State) : peek16 a (pop16 s).2 = peek16 a s := by simp [pop16_eq]

/-! ## What the returns take -/

/-- R470. -/
@[simp] theorem reg16_sp_releaseStack (n : Word) (s : State) : reg16 .sp (releaseStack n s) = reg16 .sp s + n :=
  reg16_setReg16_same _ .sp _

section
variable (s : State)

/-- R469. -/
theorem retNear_eq : retNear s = (pop16 s).2.setIp (peek16 (stackAt 0 s) s) := by
  rw [← stackTop_eq_stackAt, ← pop16_fst]
  rfl

@[simp] theorem retNear_ip : (retNear s).ip = peek16 (stackAt 0 s) s := by simp [retNear_eq]

@[simp] theorem reg16_sp_retNear : reg16 .sp (retNear s) = reg16 .sp s + 2 := by simp [retNear_eq]

@[simp] theorem sreg_retNear (k : Sreg) : sreg k (retNear s) = sreg k s := by simp [retNear_eq]

@[simp] theorem peek16_retNear (a : Linear) : peek16 a (retNear s) = peek16 a s := by simp [retNear_eq]

@[simp] theorem stackTop_retNear : stackTop (retNear s) = stackAt 2 s := by simp [stackTop, stackAt]

/-- R471. -/
theorem retFar_eq : retFar s = setSreg .cs (peek16 (stackAt 2 s) s) (pop16 (retNear s)).2 := by
  rw [← stackTop_retNear, ← peek16_retNear, ← pop16_fst]
  rfl

@[simp] theorem retFar_ip : (retFar s).ip = peek16 (stackAt 0 s) s := by simp [retFar_eq]

@[simp] theorem sreg_cs_retFar : sreg .cs (retFar s) = peek16 (stackAt 2 s) s := by simp [retFar_eq]

@[simp] theorem sreg_ss_retFar : sreg .ss (retFar s) = sreg .ss s := by simp [retFar_eq, sreg_setSreg]

@[simp] theorem reg16_sp_retFar : reg16 .sp (retFar s) = reg16 .sp s + 4 := by simp [retFar_eq, add_assoc]

@[simp] theorem peek16_retFar (a : Linear) : peek16 a (retFar s) = peek16 a s := by simp [retFar_eq]

@[simp] theorem stackTop_retFar : stackTop (retFar s) = stackAt 4 s := by simp [stackTop, stackAt]

/-- R497: IRET is a far return and one pop more. -/
theorem exec_iret : exec .iret s = .next (setFlagsWord (peek16 (stackAt 4 s) s) (pop16 (retFar s)).2) := by
  rw [← stackTop_retFar, ← peek16_retFar, ← pop16_fst]
  rfl

end

namespace Frame
variable {w : Writes} {s t : State}

theorem retNear (h : Frame w s t) (hsp : Reg16.sp ∈ w.regs) (hip : w.ip = true)
    (hr : wordAt (stackAt 0 t) ⊆ w.reads) : Frame w s (retNear t) := by
  rw [retNear_eq]
  exact (h.pop16 hsp (by rwa [stackTop_eq_stackAt])).setIp hip _

theorem retFar (h : Frame w s t) (hsp : Reg16.sp ∈ w.regs) (hcs : Sreg.cs ∈ w.sregs) (hip : w.ip = true)
    (hr : wordAt (stackAt 0 t) ++ wordAt (stackAt 2 t) ⊆ w.reads) : Frame w s (retFar t) := by
  obtain ⟨hip0, hcs2⟩ := List.append_subset.mp hr
  rw [retFar_eq]
  exact ((h.retNear hsp hip hip0).pop16 hsp (by rwa [stackTop_retNear])).setSreg hcs _

end Frame

theorem frame_retNear (s : State) :
    Frame { regs := [.sp], ip := true, reads := wordAt (stackAt 0 s) } s (retNear s) :=
  (Frame.refl _ s).retNear List.mem_cons_self rfl (List.Subset.refl _)

theorem frame_retFar (s : State) :
    Frame { regs := [.sp], sregs := [.cs], ip := true, reads := wordAt (stackAt 0 s) ++ wordAt (stackAt 2 s) } s
      (retFar s) :=
  (Frame.refl _ s).retFar List.mem_cons_self List.mem_cons_self rfl (List.Subset.refl _)

/-- R497, the third word being the FLAGS word. -/
theorem completes_iret (s : State) :
    Completes .iret s (fun t => t.ip = peek16 (stackAt 0 s) s ∧ sreg .cs t = peek16 (stackAt 2 s) s ∧
      t.flags = .ofWord (peek16 (stackAt 4 s) s) ∧ reg16 .sp t = reg16 .sp s + 6 ∧
      Frame { regs := [.sp], sregs := [.cs], flags := [.cf, .pf, .af, .zf, .sf, .tf, .if, .df, .of], ip := true,
              reads := wordAt (stackAt 0 s) ++ wordAt (stackAt 2 s) ++ wordAt (stackAt 4 s) } s t) := by
  refine ⟨_, exec_iret s, (pop16_ip _).trans (retFar_ip s), (sreg_pop16 .cs _).trans (sreg_cs_retFar s), rfl, ?sp,
    Frame.setFlags (.pop16 (.retFar (.refl _ s) ?regs ?sregs rfl ?far) ?regs ?flagsWord) _ ?flags⟩
  case sp => rw [reg16_setFlagsWord, reg16_sp_pop16, reg16_sp_retFar, add_assoc]; rfl
  case far => exact List.subset_append_left _ _
  case flagsWord => rw [stackTop_retFar]; exact List.subset_append_right _ _
  case flags => exact fun k hk => absurd (mem_popfFlags k) hk
  all_goals exact List.mem_cons_self

/-- Settles O50: a call is one push, or two, and a jump; a return is one pop after another, each from two bytes above
the one before. -/
theorem callsAndReturns : Obligations.CallsAndReturns := by
  refine ⟨fun s => ⟨?near, ?operand, fun off seg => farCall_pushes rfl (.refl _ s), ?farOperand⟩,
    fun s => ⟨?ret, ?retImm, ?retf, ?retfImm, completes_iret s⟩⟩
  case near => exact fun rel => ⟨_, pushed_of_reads s.ip (.refl _ s), exec_callNear rel s⟩
  case operand =>
    exact fun rm => ⟨_, pushed_of_reads s.ip (.afterRead16 rm (List.Subset.refl _)), exec_callE rm s⟩
  case farOperand =>
    exact fun m => farCall_pushes (exec_callM_mem m s) ((Frame.refl _ s).touchFar (List.Subset.refl _))
  case ret => exact ⟨_, rfl, retNear_ip s, reg16_sp_retNear s, frame_retNear s⟩
  case retImm =>
    refine fun n => ⟨_, rfl, retNear_ip s, ?_, (frame_retNear s).setReg16 List.mem_cons_self _⟩
    rw [reg16_sp_releaseStack, reg16_sp_retNear]
  case retf => exact ⟨_, rfl, retFar_ip s, sreg_cs_retFar s, reg16_sp_retFar s, frame_retFar s⟩
  case retfImm =>
    refine fun n => ⟨_, rfl, retFar_ip s, sreg_cs_retFar s, ?_, (frame_retFar s).setReg16 List.mem_cons_self _⟩
    rw [reg16_sp_releaseStack, reg16_sp_retFar]

end Sys2Proof.Machine
end

section
/-! PROOFS. The vectored interrupt sequence and the instructions that run it (spec/60_exceptions.md R760 to R763;
spec/44_control_transfer.md R494 to R496; spec/46_ext186.md R563). -/

namespace Sys2Proof.Machine

/-! ## The interrupt frame -/

/-- R230: a push is its store after SP has moved. -/
theorem push16_eq (v : Word) (s : State) :
    push16 v s = write16 (stackBelow s) v (setReg16 .sp (reg16 .sp s - 2) s) := by
  simp [push16, stackTop, stackBelow]

@[simp] theorem reg16_sp_push16 (v : Word) (s : State) : reg16 .sp (push16 v s) = reg16 .sp s - 2 := by simp [push16_eq]

/-- Memory after a push is memory after its store. -/
theorem MemEq.push16_of_write16 {u t : State} (h : MemEq u t) (v : Word) {a : Linear} (ha : stackBelow t = a) :
    MemEq (Machine.write16 a v u) (Machine.push16 v t) := by
  rw [push16_eq, ha]
  exact (h.setReg16 .sp _).write16 a v

/-- A frame that leaves every flag leaves the FLAGS word. -/
theorem Frame.flagsWord {w : Writes} {s t : State} (h : Frame w s t) (hw : w.flags = []) :
    flagsWord t = flagsWord s := by
  have hflags : t.flags = s.flags := Flags.ext_get fun k => h.flags k (hw ▸ List.not_mem_nil)
  rw [Machine.flagsWord, Machine.flagsWord, hflags, h.devices.params]

/-- The pushes of the sequence, with IF and TF cleared after the FLAGS word is pushed (R760). -/
def pushFrame (ret : Word) (s : State) : State :=
  push16 ret (push16 (sreg .cs s) (setFlag .tf false (setFlag .if false (push16 (flagsWord s) s))))

/-- R761: the second word of a vector is two bytes on; no vector's offset wraps. -/
theorem vectorAt_add_two (n : Byte) : lin 0 (4 * n.setWidth 16 + 2) = vectorAt n + 2 := by
  have hn : n.toNat < 256 := n.isLt
  rw [vectorAt, ← BitVec.toNat_inj, BitVec.toNat_add, toNat_lin, toNat_lin]
  simp only [BitVec.ofNat_eq_ofNat, BitVec.toNat_ofNat, BitVec.toNat_add, BitVec.toNat_mul, BitVec.toNat_setWidth]
  omega

theorem vectored_eq (n : Byte) (ret : Word) (s : State) : vectored n ret s =
    (setSreg .cs (peek16 (vectorAt n + 2) (pushFrame ret s)) (touch16 (vectorAt n + 2)
      ((touch16 (vectorAt n) (pushFrame ret s)).setIp (peek16 (vectorAt n) (pushFrame ret s))))).setRun .running := by
  simp only [vectored, read16_eq, vectorAt_add_two, sreg_setFlag, sreg_push16, peek16_setIp, peek16_touch16]
  rfl

/-- After the pushes the sequence only reads. -/
theorem sameMemory_vectored (n : Byte) (ret : Word) (s : State) : SameMemory (vectored n ret s) (pushFrame ret s) := by
  rw [vectored_eq]
  exact (((MemEq.refl _).setSreg .cs _).setRun .running).same.trans ((SameMemory.touch16 _ _).trans
    (((MemEq.refl _).setIp _).same.trans (SameMemory.touch16 _ _)))

/-! ## The sequence in the state u that an instruction's reads leave -/

section
variable {s u : State} {reads : List Linear} (hu : Frame { reads := reads } s u) (ret : Word)
include hu

theorem memEq_pushFrame : MemEq (withFrame ret s u) (pushFrame ret u) := by
  rw [withFrame, pushFrame, hu.flagsWord rfl, hu.sreg_of_reads .cs]
  refine .push16_of_write16 (.push16_of_write16
    (.setFlag (.setFlag (.push16_of_write16 (.refl u) _ ?flags) .if false) .tf false) _ ?cs) _ ?ip
  all_goals simp [stackBelow, frameFlags, frameCS, frameIP, hu.reg16_of_reads, hu.sreg_of_reads, sub_sub]

theorem frame_pushFrame (n : Byte) (free : List Flag) :
    Frame (vectoredWrites n free reads s) s (pushFrame ret u) := by
  have h : Frame (vectoredWrites n free reads s) s u := hu.of_reads (by simp [vectoredWrites])
  refine Frame.push16 (.push16 (.setFlag (.setFlag (h.push16 ?sp ?flags _) ?ifFree _) ?tfFree _) ?sp ?cs _) ?sp ?ip _
  all_goals simp [vectoredWrites, frameFlags, frameCS, frameIP, hu.reg16_of_reads, hu.sreg_of_reads, sub_sub]

/-- R760, R761, whatever flags may be free besides. -/
theorem vectored_of_reads (n : Byte) (free : List Flag) :
    Vectored n ret free reads u s (vectored n ret u) := by
  have hmem : SameMemory (pushFrame ret u) (withFrame ret s u) := (memEq_pushFrame hu ret).same
  refine ⟨?sp, (sameMemory_vectored n ret u).trans hmem, ?ip, ?cs, ?ifClear, ?tfClear, rfl, ?frame⟩
  case sp => simp [vectored_eq, pushFrame, hu.reg16_of_reads, sub_sub]
  case ip => simp [vectored_eq, hmem.peek16]
  case cs => simp [vectored_eq, hmem.peek16]
  case ifClear => simp [vectored_eq, pushFrame, flag_setFlag]
  case tfClear => simp [vectored_eq, pushFrame]
  case frame =>
    rw [vectored_eq]
    refine Frame.setRun (.setSreg (.touch16 (.setIp (.touch16 (frame_pushFrame hu ret n free) ?first) rfl _) ?second)
      ?cs _) rfl _
    all_goals simp [vectoredWrites]

end

/-! ## The instructions -/

/-- R762. -/
theorem interrupt_of_not_shortCircuited {n : Byte} {s : State} (h : shortCircuited n s = false) (ret : Word) :
    interrupt n ret s = .next (vectored n ret s) := by
  obtain ⟨h10, h13⟩ := Bool.or_eq_false_iff.mp h
  rw [interrupt, servesInt10, h10, h13]
  rfl

/-- An instruction that runs the sequence of a vector no short circuit serves, in the state u its reads leave. -/
theorem completes_interrupt {i : Instr} {s u : State} {reads : List Linear} {n : Byte} {ret : Word}
    (h : exec i s = interrupt n ret u) (hn : shortCircuited n u = false) (hu : Frame { reads := reads } s u) :
    Completes i s (Vectored n ret [] reads u s) :=
  ⟨_, h.trans (interrupt_of_not_shortCircuited hn ret), vectored_of_reads hu ret n []⟩

theorem exec_into (s : State) : exec .into s = if flag .of s then interrupt 4 s.ip s else .next s := rfl

/-- R563: the bounds are read before the register is compared, and the return IP is the instruction's own. -/
theorem exec_bound_mem (g : Reg16) (m : MemOp) (s : State) : exec (.bound g (.mem m)) s =
    if (reg16 g s).toInt < (peek16 (ea m s) s).toInt ∨ (peek16 (ea m s + 2) s).toInt < (reg16 g s).toInt then
      interrupt 5 s.instrIP (touch16 (ea m s + 2) (touch16 (ea m s) s))
    else .next (touch16 (ea m s + 2) (touch16 (ea m s) s)) := by
  show execBound g (.mem m) s = _
  simp only [execBound, readFar_eq, reg16_touch16, touch16_instrIP]

/-- Settles O51: each is `interrupt` of its vector, INTO and BOUND behind their test. -/
theorem interruptsEnterTheirVector : Obligations.InterruptsEnterTheirVector := by
  intro s
  refine ⟨fun n hn => completes_interrupt rfl hn (.refl _ s), completes_interrupt rfl rfl (.refl _ s),
    fun hof => completes_interrupt ((exec_into s).trans (if_pos hof)) rfl (.refl _ s),
    fun hof => (exec_into s).trans (if_neg (ne_true_of_eq_false hof)), fun g m => ?bound⟩
  case bound =>
    have hread : Frame { reads := wordAt (ea m s) ++ wordAt (ea m s + 2) } s
        (touch16 (ea m s + 2) (touch16 (ea m s) s)) := (Frame.refl _ s).touchFar (List.Subset.refl _)
    refine ⟨fun ⟨hlo, hhi⟩ => ⟨_, (exec_bound_mem g m s).trans (if_neg ?inRange), hread⟩,
      fun hout => completes_interrupt ((exec_bound_mem g m s).trans (if_pos hout)) rfl hread⟩
    case inRange => exact not_or.mpr ⟨hlo.not_gt, hhi.not_gt⟩

end Sys2Proof.Machine
end

section
/-! PROOFS. PUSHA, POPA, ENTER and LEAVE (spec/46_ext186.md R561, R562, R569, R570). -/

namespace Sys2Proof.Machine

/-- The words at the first n of a row of addresses, as the frames list them. -/
theorem wordAt_subset_flatMap_range {k n : Nat} (h : k < n) (f : Nat → Linear) :
    wordAt (f k) ⊆ (List.range n).flatMap fun j => wordAt (f j) :=
  fun _ hx => List.mem_flatMap.mpr ⟨k, List.mem_range.mpr h, hx⟩

/-- The offset 2k + 2, one word past the offset 2k. -/
theorem ofNat_two_mul_add_two (k : Nat) : BitVec.ofNat 16 (2 * k + 2) = BitVec.ofNat 16 (2 * k) + 2 :=
  BitVec.ofNat_add (2 * k) 2

/-! ## Pushes one after another -/

/-- The k-th word below the stack's top, from 0: where the pushes of an instruction that starts in s store. -/
def pushSlot (s : State) (k : Nat) : Linear := lin (sreg .ss s) (reg16 .sp s - BitVec.ofNat 16 (2 * k + 2))

/-- What an instruction of n pushes writes, with the registers and the bytes it may load besides. -/
def pushWrites (regs : List Reg16) (n : Nat) (reads : List Linear) (s : State) : Writes where
  regs := regs
  mem := (List.range n).flatMap fun k => wordAt (pushSlot s k)
  reads := reads

/-- t is reached from s by k pushes, with memory as in u. -/
structure PushedDown (w : Writes) (s : State) (k : Nat) (u t : State) : Prop where
  sp : reg16 .sp t = reg16 .sp s - BitVec.ofNat 16 (2 * k)
  mem : MemEq u t
  frame : Frame w s t

namespace PushedDown
variable {regs : List Reg16} {n k : Nat} {reads : List Linear} {s u t : State}

theorem refl (w : Writes) (s : State) : PushedDown w s 0 s s := ⟨(BitVec.sub_zero _).symm, .refl s, .refl w s⟩

/-- The next push stores in the next slot (R230). -/
theorem push16 (h : PushedDown (pushWrites regs n reads s) s k u t) (hsp : .sp ∈ regs) (hk : k < n) (v : Word) :
    PushedDown (pushWrites regs n reads s) s (k + 1) (write16 (pushSlot s k) v u) (push16 v t) := by
  have hnext : reg16 .sp t - 2 = reg16 .sp s - BitVec.ofNat 16 (2 * k + 2) := by
    rw [h.sp, ofNat_two_mul_add_two, sub_sub]
  have hslot : stackBelow t = pushSlot s k := by rw [stackBelow, pushSlot, hnext, h.frame.sregs .ss List.not_mem_nil]
  refine ⟨(reg16_sp_push16 v t).trans hnext, h.mem.push16_of_write16 v hslot, h.frame.push16 hsp ?_ v⟩
  rw [← stackBelow, hslot]
  exact wordAt_subset_flatMap_range hk (pushSlot s)

/-- A list of words, each in the slot of its place. -/
theorem pushList (h : PushedDown (pushWrites regs n reads s) s k u t) (hsp : .sp ∈ regs) (vs : List Word)
    (hk : k + vs.length ≤ n) :
    PushedDown (pushWrites regs n reads s) s (k + vs.length)
      ((vs.zipIdx k).foldl (fun u x => write16 (pushSlot s x.2) x.1 u) u)
      (vs.foldl (fun t v => Machine.push16 v t) t) := by
  induction vs generalizing k u t with
  | nil => exact h
  | cons v vs ih =>
    rw [List.length_cons, ← Nat.add_assoc, Nat.add_right_comm] at hk ⊢
    exact ih (h.push16 hsp (by omega) v) hk

end PushedDown

/-! ## PUSHA -/

/-- The order in which PUSHA stores the registers (R561). -/
def pushaOrder : List Reg16 := [.ax, .cx, .dx, .bx, .sp, .bp, .si, .di]

theorem reg16_push16_of_ne_sp {r : Reg16} (h : r ≠ .sp) (v : Word) (s : State) :
    reg16 r (push16 v s) = reg16 r s := by
  rw [push16_eq, reg16_write16, reg16_setReg16_other h]

/-- A push changes no register but SP, so PUSHA pushes the values of its start. -/
theorem exec_pusha (s : State) :
    exec .pusha s = .next ((pushaOrder.map (reg16 · s)).foldl (fun t v => push16 v t) s) := by
  show execPusha s = _
  simp [execPusha, pushRegValue, pushaOrder, reg16_push16_of_ne_sp]

/-- R561. -/
theorem completes_pusha (s : State) : Completes .pusha s (fun t => reg16 .sp t = reg16 .sp s - 16 ∧
    SameMemory t (pushaOrder.zipIdx.foldl (fun u x => write16 (pushSlot s x.2) (reg16 x.1 s) u) s) ∧
    Frame (pushWrites [.sp] 8 [] s) s t) := by
  have h := (PushedDown.refl (pushWrites [.sp] 8 [] s) s).pushList List.mem_cons_self
    (pushaOrder.map (reg16 · s)) (Nat.le_refl 8)
  exact ⟨_, exec_pusha s, h.sp, h.mem.same, h.frame⟩

/-! ## POPA -/

/-- The k-th word of the stack, from its top. -/
def stackWord (s : State) (k : Nat) : Linear := lin (sreg .ss s) (reg16 .sp s + BitVec.ofNat 16 (2 * k))

theorem mem_pushaOrder (r : Reg16) : r ∈ pushaOrder := by cases r <;> decide

/-- What POPA changes and what it reads. -/
def popaWrites (s : State) : Writes where
  regs := pushaOrder
  reads := (List.range 8).flatMap fun k => wordAt (stackWord s k)

theorem Frame.popInto {w : Writes} {s t : State} (h : Frame w s t) {r : Reg16} (hr : r ∈ w.regs)
    (hsp : Reg16.sp ∈ w.regs) (ha : wordAt (stackTop t) ⊆ w.reads) : Frame w s (popInto r t) :=
  (h.pop16 hsp ha).setReg16 hr _

theorem reg16_pop16_other {j : Reg16} (h : j ≠ .sp) (s : State) : reg16 j (pop16 s).2 = reg16 j s := by
  rw [pop16_eq]
  exact (reg16_setReg16_other h _ _).trans (reg16_touch16 s j _)

theorem reg16_popInto_other {j r : Reg16} (hj : j ≠ r) (hsp : j ≠ .sp) (s : State) :
    reg16 j (popInto r s) = reg16 j s :=
  (reg16_setReg16_other hj _ _).trans (reg16_pop16_other hsp s)

theorem Frame.peek16_of_mem {w : Writes} {s t : State} (h : Frame w s t) (hw : w.mem = []) (a : Linear) :
    peek16 a t = peek16 a s := by
  have hbyte (b : Linear) : peek8 b t = peek8 b s := h.memory.bytes b (hw ▸ List.not_mem_nil)
  rw [peek16, peek16, hbyte, hbyte]

/-- t is reached from s by k pops; each register of the list still holds its word. -/
structure PoppedUp (s : State) (k : Nat) (loaded : List (Reg16 × Nat)) (t : State) : Prop where
  sp : reg16 .sp t = reg16 .sp s + BitVec.ofNat 16 (2 * k)
  holds : ∀ x ∈ loaded, x.1 ≠ .sp ∧ reg16 x.1 t = peek16 (stackWord s x.2) s
  frame : Frame (popaWrites s) s t

namespace PoppedUp
variable {s t : State} {k : Nat} {loaded : List (Reg16 × Nat)}

theorem refl (s : State) : PoppedUp s 0 [] s := ⟨(BitVec.add_zero _).symm, by simp, .refl _ s⟩

section
variable (h : PoppedUp s k loaded t)
include h

theorem stackTop_eq : stackTop t = stackWord s k := by
  rw [stackTop, stackWord, h.sp, h.frame.sregs .ss List.not_mem_nil]

theorem sp_add_two : reg16 .sp t + 2 = reg16 .sp s + BitVec.ofNat 16 (2 * (k + 1)) := by
  rw [h.sp, Nat.mul_succ, ofNat_two_mul_add_two, add_assoc]

theorem reads (hk : k < 8) : wordAt (stackTop t) ⊆ (popaWrites s).reads := by
  rw [h.stackTop_eq]
  exact wordAt_subset_flatMap_range hk (stackWord s)

/-- R562. The three conditions are closed facts along POPA's own chain of pops. -/
theorem popInto (r : Reg16) (hk : k < 8 := by decide) (hr : r ≠ .sp := by decide)
    (hfresh : ∀ x ∈ loaded, x.1 ≠ r := by decide) :
    PoppedUp s (k + 1) (loaded ++ [(r, k)]) (popInto r t) := by
  refine ⟨(reg16_sp_popInto hr t).trans h.sp_add_two, fun x hx => ?_,
    h.frame.popInto (mem_pushaOrder r) (mem_pushaOrder .sp) (h.reads hk)⟩
  rcases List.mem_append.mp hx with hx | hx
  case inl =>
    obtain ⟨hsp, hvalue⟩ := h.holds x hx
    exact ⟨hsp, (reg16_popInto_other (hfresh x hx) hsp t).trans hvalue⟩
  case inr =>
    obtain rfl := List.mem_singleton.mp hx
    refine ⟨hr, ?_⟩
    rw [reg16_popInto_same, h.stackTop_eq, h.frame.peek16_of_mem rfl]

/-- R562: the word in SP's place is dropped. -/
theorem discard (hk : k < 8 := by decide) : PoppedUp s (k + 1) loaded (pop16 t).2 := by
  refine ⟨(reg16_sp_pop16 t).trans h.sp_add_two, fun x hx => ?_, h.frame.pop16 (mem_pushaOrder .sp) (h.reads hk)⟩
  obtain ⟨hsp, hvalue⟩ := h.holds x hx
  exact ⟨hsp, (reg16_pop16_other hsp t).trans hvalue⟩

end

end PoppedUp

/-- R562. -/
theorem completes_popa (s : State) : Completes .popa s (fun t => reg16 .sp t = reg16 .sp s + 16 ∧
    (∀ x ∈ [(Reg16.di, 0), (.si, 1), (.bp, 2), (.bx, 4), (.dx, 5), (.cx, 6), (.ax, 7)],
      reg16 x.1 t = peek16 (stackWord s x.2) s) ∧
    Frame (popaWrites s) s t) := by
  have h := (PoppedUp.refl s).popInto .di |>.popInto .si |>.popInto .bp |>.discard |>.popInto .bx |>.popInto .dx
    |>.popInto .cx |>.popInto .ax
  exact ⟨_, rfl, h.sp, fun x hx => (h.holds x hx).2, h.frame⟩

/-! ## ENTER -/

/-- The k-th word below the old BP: the frame pointers that a nested ENTER copies (R569). -/
def outerFrame (s : State) (k : Nat) : Linear := lin (sreg .ss s) (reg16 .bp s - BitVec.ofNat 16 (2 * k + 2))

/-- Memory after one of them is copied into the slot below BP's. -/
def copyFrame (s u : State) (k : Nat) : State :=
  write16 (pushSlot s (k + 1)) (peek16 (outerFrame s k) u) (touch16 (outerFrame s k) u)

/-- What ENTER writes at nesting level l. -/
def enterWrites (l : Nat) (s : State) : Writes :=
  pushWrites [.sp, .bp] (l + 1) ((List.range (l - 1)).flatMap fun k => wordAt (outerFrame s k)) s

theorem enterCopy_succ (m : Nat) (s : State) :
    let a := lin (sreg .ss s) (reg16 .bp s - 2)
    enterCopy (m + 1) s = enterCopy m (push16 (peek16 a s) (touch16 a (setReg16 .bp (reg16 .bp s - 2) s))) := by
  simp [enterCopy, read16_eq]

/-- The copies after the first k. -/
theorem PushedDown.enterCopy {l k m : Nat} {s u t : State} (h : PushedDown (enterWrites l s) s (k + 1) u t)
    (hbp : reg16 .bp t = reg16 .bp s - BitVec.ofNat 16 (2 * k)) (hl : k + m + 1 ≤ l) :
    PushedDown (enterWrites l s) s (k + m + 1) ((List.range' k m).foldl (copyFrame s) u) (enterCopy m t) := by
  induction m generalizing k u t with
  | zero => exact h
  | succ m ih =>
    have hnext : reg16 .bp t - 2 = reg16 .bp s - BitVec.ofNat 16 (2 * k + 2) := by
      rw [hbp, ofNat_two_mul_add_two, sub_sub]
    have haddr : lin (sreg .ss t) (reg16 .bp t - 2) = outerFrame s k := by
      rw [hnext, outerFrame, h.frame.sregs .ss List.not_mem_nil]
    have hread : PushedDown (enterWrites l s) s (k + 1) (touch16 (outerFrame s k) u)
        (touch16 (outerFrame s k) (setReg16 .bp (reg16 .bp t - 2) t)) :=
      ⟨by simpa [reg16_setReg16] using h.sp, (h.mem.setReg16 .bp _).touch16 _,
        (h.frame.setReg16 (by simp [enterWrites, pushWrites]) _).touch16
          (wordAt_subset_flatMap_range (by omega) (outerFrame s))⟩
    have hcopy := hread.push16 (by decide) (by omega) (peek16 (outerFrame s k) u)
    rw [enterCopy_succ, haddr, h.mem.same.peek16, ← Nat.add_assoc, Nat.add_right_comm k m 1]
    refine ih hcopy ?_ (by omega)
    rw [reg16_push16_of_ne_sp (by decide), reg16_touch16, reg16_setReg16_same, hnext]
    rfl

/-- Memory after ENTER. -/
def enterMemory (l : Nat) (s : State) : State :=
  let pushed := write16 (pushSlot s 0) (reg16 .bp s) s
  if l = 0 then pushed
  else write16 (pushSlot s l) (reg16 .sp s - 2) ((List.range (l - 1)).foldl (copyFrame s) pushed)

/-- The pushes of ENTER, before BP and SP take their last values. -/
def enterPushes (l : Nat) (s : State) : State :=
  if l = 0 then pushRegValue .bp s else push16 (reg16 .sp s - 2) (enterCopy (l - 1) (pushRegValue .bp s))

theorem pushedDown_enterPushes (l : Nat) (s : State) :
    PushedDown (enterWrites l s) s (l + 1) (enterMemory l s) (enterPushes l s) := by
  have hbp := (PushedDown.refl (enterWrites l s) s).push16 (by decide) (by omega) (reg16 .bp s)
  cases l with
  | zero => exact hbp
  | succ m =>
    have hcopies := hbp.enterCopy (m := m) (by simp [reg16_push16_of_ne_sp]) (by omega)
    rw [Nat.zero_add, ← List.range_eq_range'] at hcopies
    exact hcopies.push16 (by decide) (by omega) (reg16 .sp s - 2)

theorem exec_enter (size : Word) (level : Byte) (s : State) :
    let f := reg16 .sp s - 2
    let t := enterPushes (level.toNat % 32) s
    exec (.enter size level) s = .next (setReg16 .sp (reg16 .sp t - size) (setReg16 .bp f t)) := by
  show execEnter size level s = _
  simp [execEnter, enterPushes, pushRegValue, reg16_setReg16]

/-- R569. -/
theorem completes_enter (size : Word) (level : Byte) (s : State) :
    let l := level.toNat % 32
    let f := reg16 .sp s - 2
    Completes (.enter size level) s (fun t =>
      reg16 .bp t = f ∧ reg16 .sp t = f - BitVec.ofNat 16 (2 * l) - size ∧ SameMemory t (enterMemory l s) ∧
      Frame (enterWrites l s) s t) := by
  intro l f
  have h := pushedDown_enterPushes l s
  refine ⟨_, exec_enter size level s, ?bp, ?sp, ((h.mem.setReg16 .bp f).setReg16 .sp _).same,
    (h.frame.setReg16 (by simp [enterWrites, pushWrites]) f).setReg16 List.mem_cons_self _⟩
  case bp => simp [reg16_setReg16, f]
  case sp =>
    rw [reg16_setReg16_same, h.sp, Nat.mul_succ, ofNat_two_mul_add_two, add_comm, ← sub_sub]

/-! ## LEAVE -/

/-- R570: BP's word is popped from where BP points. -/
theorem completes_leave (s : State) : Completes .leave s (fun t =>
    reg16 .bp t = peek16 (lin (sreg .ss s) (reg16 .bp s)) s ∧ reg16 .sp t = reg16 .bp s + 2 ∧
    Frame { regs := [.sp, .bp], reads := wordAt (lin (sreg .ss s) (reg16 .bp s)) } s t) := by
  have htop : stackTop (setReg16 .sp (reg16 .bp s) s) = lin (sreg .ss s) (reg16 .bp s) := by simp [stackTop]
  have hsp : Reg16.sp ∈ [Reg16.sp, .bp] := by decide
  have hbp : Reg16.bp ∈ [Reg16.sp, .bp] := by decide
  refine ⟨_, rfl, ?bp, ?sp, ((Frame.refl _ s).setReg16 hsp _).popInto hbp hsp ?reads⟩
  case bp => rw [reg16_popInto_same, htop, peek16_setReg16]
  case sp => rw [reg16_sp_popInto (by decide), reg16_setReg16_same]
  case reads => rw [htop]; exact List.Subset.refl _

/-- Settles O52: PUSHA and ENTER are pushes one after another, POPA pops one after another, LEAVE one pop from BP. -/
theorem stackFrames : Obligations.StackFrames := fun s =>
  ⟨completes_pusha s, completes_popa s, fun size level => completes_enter size level s, completes_leave s⟩

end Sys2Proof.Machine
end

section
/-! PROOFS. The INT 10h service (spec/48_bios_video_int10.md R650 to R654) and its short circuit (R762). -/

namespace Sys2Proof.Machine

/-! ## The mode table -/

/-- The rows of R652 with their modes: what `modeRow` lists. -/
def modeTable : List (BitVec 7 × Nat × Nat × Option (Nat × Nat) × FrameBase) :=
  [(0x00, 40, 25, none, .b8000), (0x01, 40, 25, none, .b8000), (0x02, 80, 25, none, .b8000),
   (0x03, 80, 25, none, .b8000), (0x04, 40, 25, some (320, 200), .b8000), (0x05, 40, 25, some (320, 200), .b8000),
   (0x06, 80, 25, some (640, 200), .b8000), (0x07, 80, 25, none, .b8000), (0x0D, 40, 25, some (320, 200), .a0000),
   (0x0E, 80, 25, some (640, 200), .a0000), (0x0F, 80, 25, some (640, 350), .a0000),
   (0x10, 80, 25, some (640, 350), .a0000), (0x11, 80, 30, some (640, 480), .a0000),
   (0x12, 80, 30, some (640, 480), .a0000), (0x13, 40, 25, some (320, 200), .a0000)]

/-- A row of the table as the model holds it. -/
def tableRow (x : BitVec 7 × Nat × Nat × Option (Nat × Nat) × FrameBase) : ModeRow :=
  ⟨x.2.1, x.2.2.1, x.2.2.2.1, x.2.2.2.2⟩

theorem modeRow_of_mem_modeTable : ∀ x ∈ modeTable, modeRow x.1 = some (tableRow x) := by decide

theorem modeRow_of_notMem_modeTable : ∀ m : BitVec 7, (∀ x ∈ modeTable, x.1 ≠ m) → modeRow m = none := by
  decide

/-! ## Blanking (R653) -/

/-- The bytes that R653 may change in the framebuffer of a base. -/
def Blankable (base : FrameBase) (s : State) (a : Linear) : Prop :=
  (base = .b8000 ∧ 0xB8000 ≤ a.toNat ∧ a.toNat ≤ 0xBFFFF ∧ isReadonly a s = false) ∨
    (base = .a0000 ∧ inAperture a = true)

/-- t is s but for the framebuffer of a base and the count of draws. -/
structure BlankedAtMost (base : FrameBase) (s t : State) : Prop where
  bytes : ∀ a, peek8 a t ≠ peek8 a s → Blankable base s a
  planes : base = .b8000 → t.video.planes = s.video.planes
  ram : base = .a0000 → t.ram = s.ram
  video : { t.video with planes := s.video.planes } = s.video
  regs : t.regs = s.regs
  sregs : t.sregs = s.sregs
  flags : t.flags = s.flags
  ip : t.ip = s.ip
  devices : KeepsDevices s t

/-- A key outside the drawn range, or in the list to keep, keeps its byte. -/
theorem get_drawTable_other {d : Byte} {keep : List Nat} {lo n j : Nat} (k : Nat) (t : Table Byte)
    (hj : j ∈ keep ∨ j < lo ∨ lo + n ≤ j) : (drawTable d keep lo k n t).get d j = t.get d j := by
  induction n with
  | zero => rfl
  | succ n ih =>
    have hrest := ih (hj.imp_right (by omega))
    rw [drawTable]
    split
    case isTrue => exact hrest
    case isFalse hkeep =>
      have hne : j ≠ lo + n := by
        rintro rfl
        rcases hj with hj | hj
        · exact hkeep (List.contains_iff_mem.mpr hj)
        · omega
      exact (Table.get_set_other d _ _ hne).trans hrest

theorem blankable_of_ramGet_ne {s : State} {a : Linear} (h : ramGet (blank .b8000 s).ram a ≠ ramGet s.ram a) :
    Blankable .b8000 s a := by
  have hdrawn : ¬(a.toNat ∈ s.readonly ∨ a.toNat < 0xB8000 ∨ 0xB8000 + 0x8000 ≤ a.toNat) :=
    fun hkept => h (get_drawTable_other _ _ hkept)
  obtain ⟨hro, hrange⟩ := not_or.mp hdrawn
  exact .inl ⟨rfl, by omega, by omega, by simpa [isReadonly] using hro⟩

theorem blankable_of_peek8_ne {base : FrameBase} {s : State} {a : Linear} (h : peek8 a (blank base s) ≠ peek8 a s) :
    Blankable base s a := by
  by_cases ha : inAperture a = true
  case pos =>
    cases base
    case b8000 => exact absurd (by simp [peek8, ha, blank]) h
    case a0000 => exact .inr ⟨rfl, ha⟩
  case neg =>
    have hram : ramGet (blank base s).ram a ≠ ramGet s.ram a := by simpa [peek8, ha] using h
    cases base
    case b8000 => exact blankable_of_ramGet_ne hram
    case a0000 => exact absurd rfl hram

theorem blankedAtMost_blank (base : FrameBase) (s : State) : BlankedAtMost base s (blank base s) where
  bytes _ := blankable_of_peek8_ne
  planes h := h ▸ rfl
  ram h := h ▸ rfl
  video := by cases base <;> rfl
  regs := by cases base <;> rfl
  sregs := by cases base <;> rfl
  flags := by cases base <;> rfl
  ip := by cases base <;> rfl
  devices := by cases base <;> exact { KeepsDevices.refl s with }

namespace BlankedAtMost
variable {base : FrameBase} {s t : State}

theorem refl (base : FrameBase) (s : State) : BlankedAtMost base s s :=
  ⟨fun _ h => absurd rfl h, fun _ => rfl, fun _ => rfl, rfl, rfl, rfl, rfl, rfl, .refl s⟩

theorem of_setDraws {n : Nat} (h : BlankedAtMost base (s.setDraws n) t) : BlankedAtMost base s t :=
  { h with devices := { h.devices with } }

/-- Blanking leaves the mode state. -/
theorem mode (h : BlankedAtMost base s t) : t.video.mode = s.video.mode := congrArg (·.mode) h.video

end BlankedAtMost

/-! ## Setting the mode (R651) -/

/-- The state with the mode state of a listed row, before any blanking. -/
def withMode (m : BitVec 7) (noblank : Bool) (row : ModeRow) (s : State) : State :=
  s.setVideo { s.video with
    mode := s.video.mode.set m noblank row (familyOf (Config.drawBit s.draws) (Config.drawBit (s.draws + 1))) }

section
variable (m : BitVec 7) (noblank : Bool) (row : ModeRow) (s : State)

theorem setMode_of_noblank : setMode m true row s = (withMode m true row s).setDraws (s.draws + 2) := rfl

theorem setMode_of_blank :
    setMode m false row s = blank row.base ((withMode m false row s).setDraws (s.draws + 2)) := rfl

/-- R653: with the noblank bit no memory changes. -/
theorem sameMemory_setMode (h : noblank = true) : SameMemory (setMode m noblank row s) s := by
  rw [h, setMode_of_noblank]
  exact ⟨fun _ => rfl, fun _ => rfl, rfl⟩

theorem blankedAtMost_setMode : BlankedAtMost row.base (withMode m noblank row s) (setMode m noblank row s) := by
  cases noblank
  case false =>
    rw [setMode_of_blank]
    exact (blankedAtMost_blank _ _).of_setDraws
  case true =>
    rw [setMode_of_noblank]
    exact { BlankedAtMost.refl row.base (withMode m true row s) with devices := { KeepsDevices.refl _ with } }

/-- R652: a text row leaves width and height. -/
theorem VideoMode.set_size (old : VideoMode) (f : Family) :
    ((old.set m noblank row f).width, (old.set m noblank row f).height) = row.pixels.getD (old.width, old.height) := by
  cases h : row.pixels <;> simp [VideoMode.set, h]

end

/-! ## Reading the mode (R654) -/

theorem frame_getMode (s : State) : Frame { bytes := [.al, .ah, .bh], run := true } s (getMode s) :=
  (((Frame.refl _ s).setReg8 (.inl (by simp)) _).setReg8 (.inl (by simp)) _).setReg8 (.inl (by simp)) _

theorem getMode_registers (s : State) :
    reg8 .al (getMode s) = BitVec.ofBool s.video.mode.noblank ++ s.video.mode.number ∧
      reg8 .ah (getMode s) = BitVec.ofNat 8 s.video.mode.cols ∧
      reg8 .bh (getMode s) = s.video.mode.activePage.setWidth 8 := by
  simp [getMode, reg8_setReg8]

/-! ## The service by AH (R650) -/

section
variable {s : State}

theorem int10_of_listed (hah : reg8 .ah s = 0x00#8) {row : ModeRow}
    (hrow : modeRow ((reg8 .al s).extractLsb' 0 7) = some row) :
    int10 s = .ok (setMode ((reg8 .al s).extractLsb' 0 7) (reg8 .al s).msb row s) := by
  simp [int10, hah, hrow]

theorem int10_of_unlisted (hah : reg8 .ah s = 0x00#8) (hrow : modeRow ((reg8 .al s).extractLsb' 0 7) = none) :
    int10 s = .error ((reg8 .al s).extractLsb' 0 7) := by
  simp [int10, hah, hrow]

theorem int10_of_getMode (hah : reg8 .ah s = 0x0F#8) : int10 s = .ok (getMode s) := by simp [int10, hah]

theorem int10_of_other (hah : reg8 .ah s ∉ [0x00#8, 0x0F#8]) : int10 s = .ok s := by
  obtain ⟨hset, hget⟩ : reg8 .ah s ≠ 0x00#8 ∧ reg8 .ah s ≠ 0x0F#8 := by simpa using hah
  unfold int10
  split
  case h_1 h => exact absurd (BitVec.eq_of_toNat_eq h) hset
  case h_2 h => exact absurd (BitVec.eq_of_toNat_eq h) hget
  case h_3 => rfl

/-! ## The short circuit (R762) -/

variable (hserved : servesInt10 s = true)
include hserved

/-- The served call goes on at the instruction after it. -/
theorem exec_int10_of_ok {t : State} (ht : int10 s = .ok t) (hip : t.ip = s.ip) :
    exec (.int 0x10#8) s = .next (t.setRun .running) := by
  show interrupt 0x10#8 s.ip s = _
  rw [← hip]
  simp [interrupt, hserved, ht, served]

theorem exec_int10_of_error {m : BitVec 7} (hm : int10 s = .error m) :
    exec (.int 0x10#8) s = .refused (.unlistedVideoMode m) := by
  show interrupt 0x10#8 s.ip s = _
  simp [interrupt, hserved, hm]

end

/-- Settles O60: a mode set writes the mode state, and then at most the framebuffer of the new mode
changes; AH = 0F is three register writes. -/
theorem videoServiceCalls : Obligations.VideoServiceCalls := by
  intro s hserved m noblank old table
  refine ⟨fun hah x hx hm => ?listed, fun hah hout => ?unlisted, fun hah => ?getMode, fun hah => ?other⟩
  case listed =>
    have hrow : modeRow m = some (tableRow x) := hm ▸ modeRow_of_mem_modeTable x hx
    have hset := blankedAtMost_setMode m noblank (tableRow x) s
    refine ⟨_, exec_int10_of_ok hserved (int10_of_listed hah hrow) hset.ip, ?_⟩
    simp only [State.setRun_video]
    rw [hset.mode]
    exact ⟨rfl, rfl, rfl, rfl, rfl, VideoMode.set_size .., rfl, rfl, fun _ => rfl,
      fun h => ((MemEq.refl _).setRun _).same.trans (sameMemory_setMode m noblank _ s h),
      fun _ => hset.bytes, hset.planes, hset.ram, congrArg (fun v => { v with mode := old }) hset.video,
      hset.regs, hset.sregs, hset.flags, hset.ip, rfl, { hset.devices with }⟩
  case unlisted => exact exec_int10_of_error hserved (int10_of_unlisted hah (modeRow_of_notMem_modeTable m hout))
  case getMode =>
    obtain ⟨hal, hahNew, hbh⟩ := getMode_registers s
    exact ⟨_, exec_int10_of_ok hserved (int10_of_getMode hah) rfl, hal, hahNew, hbh, rfl,
      (frame_getMode s).setRun rfl _⟩
  case other => exact exec_int10_of_ok hserved (int10_of_other hah) rfl

end Sys2Proof.Machine
end

section
/-! PROOFS. The ports of the video adapter (spec/49_video_adapter.md R680 to R686, R694 to R705). -/

namespace Sys2Proof.Machine

/-! ## An access by the kind of its port (R121) -/

/-- The register that a read of a port answers with no other effect. -/
def Video.portValue (v : Video) : Port → Option Byte
  | .crtcIndex => some v.crtcIndex
  | .crtcData => some (v.crtc.get 0#8 v.crtcSlot)
  | .seqIndex => some v.seqIndex
  | .seqData => some (v.seqReg v.seqIndex.toNat)
  | .pixelMask => some v.pixelMask
  | .gcIndex => some v.gcIndex
  | .gcData => some (v.gcReg v.gcIndex.toNat)
  | _ => none

/-- The ports of the adapter that answer a read with a free byte. -/
def unreadablePorts : List Port :=
  [.mdaCtrl, .cgaCtrl, .cgaPalette, .attr, .dacReadIndex, .dacWriteIndex, .unnamedVideo]

/-- The ports with no register to write: a write reaches the shadow byte. -/
def shadowedPorts : List Port := [.status, .unnamedVideo, .other]

section
variable {p : Word} {port : Port} {s : State}

theorem portRead8_of_portValue {b : Byte} (hp : portAt p = port) (hb : s.video.portValue port = some b) :
    portRead8 p s = (b, s) := by
  unfold portRead8
  rw [hp]
  cases port <;> cases hb <;> rfl

theorem portRead8_of_unreadable (hp : portAt p ∈ unreadablePorts) : portRead8 p s = draw8 s := by
  simp only [unreadablePorts, List.mem_cons, List.not_mem_nil, or_false] at hp
  rcases hp with h | h | h | h | h | h | h <;> simp only [portRead8, h]

theorem portWrite8_of_shadowed (hp : portAt p ∈ shadowedPorts) (v : Byte) : portWrite8 p v s = shadowSet p v s := by
  simp only [shadowedPorts, List.mem_cons, List.not_mem_nil, or_false] at hp
  rcases hp with h | h | h <;> simp only [portWrite8, h]

/-- A write to a port that is neither shadowed nor the PIC's is the adapter's own. -/
theorem portWrite8_of_register (hp : portAt p = port) (hport : port ∉ .picCommand :: .picData :: shadowedPorts)
    (v : Byte) : portWrite8 p v s = s.setVideo (s.video.portWrite port v) := by
  unfold portWrite8
  rw [hp]
  cases port <;> simp [shadowedPorts] at hport ⊢

end

/-! ## The named ports -/

/-- A field of low bits is the byte under a mask of ones. -/
theorem toNat_extractLsb'_zero (x : Byte) (n : Nat) : (x.extractLsb' 0 n).toNat = x.toNat &&& (2 ^ n - 1) := by
  rw [BitVec.extractLsb'_toNat, Nat.shiftRight_zero, Nat.and_two_pow_sub_one_eq_mod]

/-- R682: the CRTC file is indexed by the low five bits. -/
theorem Video.crtcSlot_eq (v : Video) : v.crtcSlot = (v.crtcIndex &&& 0x1F#8).toNat := by
  rw [BitVec.toNat_and]
  exact toNat_extractLsb'_zero _ 5

section
variable {s : State} {v : Byte}

/-- R120: a read of an unreadable port has no effect but the draw of its free byte. -/
theorem portRead8_state_of_unreadable {l : List Word} (hl : ∀ p ∈ l, portAt p ∈ unreadablePorts) :
    ∀ p ∈ l, (portRead8 p s).2 = s.setDraws (s.draws + 1) := by
  intro p hp
  rw [portRead8_of_unreadable (hl p hp), draw8]

theorem access_of_portValue {p : Word} {port : Port} {b : Byte} (hp : portAt p = port)
    (hb : s.video.portValue port = some b) :
    portRead8 p s = (b, s) ∧ portWrite8 p v s = s.setVideo (s.video.portWrite port v) := by
  have hport : port ∉ .picCommand :: .picData :: shadowedPorts := by
    cases port <;> simp [shadowedPorts, Video.portValue] at hb ⊢
  exact ⟨portRead8_of_portValue hp hb, portWrite8_of_register hp hport v⟩

end

/-- Settles O28: what `portAt` says of each port listed decides between its register, a free byte and its shadow. -/
theorem adapterPortsReachTheirRegisters : Obligations.AdapterPortsReachTheirRegisters := by
  intro s v
  simp only [← Video.crtcSlot_eq]
  have hindex : ∀ p ∈ [0x3B0#16, 0x3B2#16, 0x3B4#16, 0x3B6#16, 0x3D0#16, 0x3D2#16, 0x3D4#16, 0x3D6#16],
      portAt p = .crtcIndex := List.all_iff_forall_prop.1 rfl
  have hdata : ∀ p ∈ [0x3B1#16, 0x3B3#16, 0x3B5#16, 0x3B7#16, 0x3D1#16, 0x3D3#16, 0x3D5#16, 0x3D7#16],
      portAt p = .crtcData := List.all_iff_forall_prop.1 rfl
  refine ⟨fun p hp => access_of_portValue (hindex p hp) rfl, fun p hp => access_of_portValue (hdata p hp) rfl,
    ?mdaCtrl, ?cgaCtrl, ?cgaPalette, access_of_portValue rfl rfl, access_of_portValue rfl rfl,
    access_of_portValue rfl rfl, access_of_portValue rfl rfl, access_of_portValue rfl rfl,
    ?dacReadIndex, ?dacWriteIndex, portRead8_state_of_unreadable (List.all_iff_forall_prop.1 rfl),
    portRead8_state_of_unreadable (List.all_iff_forall_prop.1 rfl), fun p hp => portWrite8_of_shadowed ?shadowed v⟩
  case mdaCtrl => exact portWrite8_of_register (port := .mdaCtrl) rfl (by decide) v
  case cgaCtrl => exact portWrite8_of_register (port := .cgaCtrl) rfl (by decide) v
  case cgaPalette => exact portWrite8_of_register (port := .cgaPalette) rfl (by decide) v
  case dacReadIndex => exact portWrite8_of_register (port := .dacReadIndex) rfl (by decide) v
  case dacWriteIndex => exact portWrite8_of_register (port := .dacWriteIndex) rfl (by decide) v
  case shadowed =>
    revert p
    exact List.all_iff_forall_prop.1 rfl

/-! ## The DAC's data port (R703, R704) -/

/-- A mask of the low n bits. -/
theorem getLsbD_lowMask (w n k : Nat) :
    (BitVec.ofNat w (2 ^ n - 1)).getLsbD k = (decide (k < w) && decide (k < n)) := by
  rw [BitVec.getLsbD_ofNat, Nat.testBit_two_pow_sub_one]

/-- R703: the channel's byte is the low six bits shifted up by two, and the other bits are the entry's. -/
theorem getLsbD_dacInsert (e : Rgb) (sh : Nat) (v : Byte) {k : Nat} (hk : k < 24) :
    (dacInsert e sh v).getLsbD k =
      if sh ≤ k ∧ k < sh + 8 then decide (sh + 2 ≤ k) && v.getLsbD (k - sh - 2) else e.getLsbD k := by
  have hchannel (j : Nat) : (0xFF#24).getLsbD j = (decide (j < 24) && decide (j < 8)) := getLsbD_lowMask 24 8 j
  have hsix (j : Nat) : (0x3F#8).getLsbD j = (decide (j < 8) && decide (j < 6)) := getLsbD_lowMask 8 6 j
  simp only [dacInsert, BitVec.getLsbD_or, BitVec.getLsbD_and, BitVec.getLsbD_not, BitVec.getLsbD_shiftLeft,
    BitVec.getLsbD_setWidth, hchannel, hsix]
  grind

/-- R704: the six bits above the channel's lowest two. -/
theorem Dac.getLsbD_readValue (d : Dac) {k : Nat} (hk : k < 8) :
    d.readValue.getLsbD k = (decide (k < 6) && (d.entry d.readIndex).getLsbD (d.channel.shift + 2 + k)) := by
  have hsix : (0x3F#24).getLsbD k = (decide (k < 24) && decide (k < 6)) := getLsbD_lowMask 24 6 k
  have hk24 : k < 24 := by omega
  simp only [Dac.readValue, BitVec.getLsbD_setWidth, BitVec.getLsbD_and, BitVec.getLsbD_ushiftRight, hsix, hk, hk24,
    decide_true, Bool.true_and, Bool.and_comm]

theorem Dac.entry_write_same (d : Dac) (v : Byte) :
    (d.write v).entry d.writeIndex = dacInsert (d.entry d.writeIndex) d.channel.shift v :=
  Table.get_set_same ..

theorem Dac.entry_write_other (d : Dac) (v : Byte) {i : Byte} (h : i ≠ d.writeIndex) :
    (d.write v).entry i = d.entry i :=
  Table.get_set_other _ _ _ fun hi => h (BitVec.eq_of_toNat_eq hi)

theorem portWrite8_dacData (v : Byte) (s : State) :
    portWrite8 0x3C9#16 v s = s.setVideo { s.video with dac := s.video.dac.write v } :=
  portWrite8_of_register (port := .dacData) rfl (by decide) v

theorem portRead8_dacData (s : State) :
    portRead8 0x3C9#16 s = (s.video.dac.readValue, s.setVideo { s.video with dac := s.video.dac.readStep }) := rfl

/-- Settles O30: a write is `Dac.write`, a read `Dac.readValue` and `Dac.readStep`. -/
theorem dacDataCyclesTheChannels : Obligations.DacDataCyclesTheChannels := by
  intro s v
  rw [portWrite8_dacData, portRead8_dacData]
  intro d sh next t u
  refine ⟨⟨rfl, rfl, fun i hi => d.entry_write_other v hi, fun k hk => ?write, rfl, rfl⟩,
    ⟨fun k hk => d.getLsbD_readValue hk, rfl⟩, ⟨_, rfl⟩, ⟨_, rfl⟩⟩
  case write => exact d.entry_write_same v ▸ getLsbD_dacInsert _ _ v hk

end Sys2Proof.Machine
end

section
/-! PROOFS. Reads and writes of the planar memory (spec/49_video_adapter.md R699, R730 to R736; lanes: R15). -/

namespace Sys2Proof.Machine

/-! ## Reading (R730, R731) -/

theorem forall_plane_iff {P : BitVec 2 → Prop} : (∀ i, P i) ↔ P 0 ∧ P 1 ∧ P 2 ∧ P 3 := by
  have hcases : ∀ i : BitVec 2, i = 0 ∨ i = 1 ∨ i = 2 ∨ i = 3 := by decide
  refine ⟨fun h => ⟨h 0, h 1, h 2, h 3⟩, fun ⟨h0, h1, h2, h3⟩ i => ?_⟩
  rcases hcases i with rfl | rfl | rfl | rfl <;> assumption

theorem getLsbD_fill8 (c : Bool) {j : Nat} (hj : j < 8) : (fill8 c).getLsbD j = c := by
  cases c
  case false => exact BitVec.getLsbD_zero
  case true => exact (BitVec.getLsbD_allOnes (v := 8)).trans (decide_eq_true hj)

theorem getLsbD_comparePlane (b : Byte) (cc dc : Bool) {j : Nat} (hj : j < 8) :
    (comparePlane b cc dc).getLsbD j = true ↔ (dc = true → b.getLsbD j = cc) := by
  simp only [comparePlane, BitVec.getLsbD_not, BitVec.getLsbD_and, BitVec.getLsbD_xor, getLsbD_fill8 _ hj, hj]
  cases dc <;> cases cc <;> simp

/-- R731: a result bit is 1 where every compared plane agrees with its compare bit. -/
theorem Video.getLsbD_readMode1 (v : Video) (a : Nat) {j : Nat} (hj : j < 8) :
    (v.readMode1 a).getLsbD j = true ↔ ∀ i : BitVec 2, (v.gcReg 7).getLsbD i.toNat = true →
      (planeGet (v.planes.plane i) a).getLsbD j = (v.gcReg 2).getLsbD i.toNat := by
  rw [forall_plane_iff]
  simp only [Video.readMode1, BitVec.getLsbD_and, Bool.and_eq_true, getLsbD_comparePlane _ _ _ hj, and_assoc]
  simp [Video.colourCompare, Video.colourDontCare, Planes.plane]

/-- Settles O32: a read is `planarByte` and `loadLatch`. -/
theorem planarReads : Obligations.PlanarReads := by
  intro s a ha v k byte
  have hvalue : (read8 a s).1 = v.planarByte k := if_pos ha
  have hstate : (read8 a s).2 = s.setVideo (v.loadLatch k) := if_pos ha
  rw [hvalue, hstate]
  refine ⟨rfl, fun hmode0 => if_neg (ne_true_of_eq_false hmode0), fun hmode1 j hj => ?_⟩
  have hcompared : v.planarByte k = v.readMode1 k := if_pos hmode1
  rw [hcompared]
  exact v.getLsbD_readMode1 k hj

/-! ## Lanes (R15) -/

section
variable (x y : BitVec 32) (i : BitVec 2)

@[simp] theorem lane_and (n : Nat) : lane (x &&& y) n = lane x n &&& lane y n := BitVec.extractLsb'_and
@[simp] theorem lane_or (n : Nat) : lane (x ||| y) n = lane x n ||| lane y n := BitVec.extractLsb'_or
@[simp] theorem lane_xor (n : Nat) : lane (x ^^^ y) n = lane x n ^^^ lane y n := BitVec.extractLsb'_xor

@[simp] theorem lane_not : lane (~~~x) i.toNat = ~~~lane x i.toNat := by
  ext j hj
  have hlt : 8 * i.toNat + j < 32 := by have := i.isLt; omega
  simp [lane, hlt]

/-- Four bytes side by side are the four lanes. -/
theorem lane_append (f : BitVec 2 → Byte) : ∀ i, lane (f 3 ++ f 2 ++ f 1 ++ f 0) i.toNat = f i := by
  refine forall_plane_iff.2 ⟨?_, ?_, ?_, ?_⟩ <;>
  · ext j hj
    simp only [lane, BitVec.getElem_extractLsb', BitVec.getLsbD_append]
    grind

@[simp] theorem lane_expand4 (z : BitVec 4) : lane (expand4 z) i.toNat = fill8 (z.getLsbD i.toNat) :=
  lane_append (fun i => fill8 (z.getLsbD i.toNat)) i

@[simp] theorem lane_broadcast8 (b : Byte) : lane (broadcast8 b) i.toNat = b := lane_append (fun _ => b) i

end

/-- A lane of ones or zeros selects one of two bytes. -/
theorem select_fill8 (c : Bool) (x y : Byte) :
    (x &&& fill8 c) ||| (y &&& ~~~fill8 c) = if c = true then x else y := by
  refine BitVec.eq_of_getLsbD_eq fun j hj => ?_
  simp only [BitVec.getLsbD_or, BitVec.getLsbD_and, BitVec.getLsbD_not, getLsbD_fill8 c hj, hj]
  cases c <;> simp

/-! ## The register fields (R699) -/

section
variable (v : Video) (i : BitVec 2)

theorem Video.toNat_writeMode : v.writeMode.toNat = (v.gcReg 5 &&& 3#8).toNat := by
  rw [BitVec.toNat_and]
  exact toNat_extractLsb'_zero _ 2

theorem Video.toNat_rotCount : v.rotCount.toNat = (v.gcReg 3 &&& 7#8).toNat := by
  rw [BitVec.toNat_and]
  exact toNat_extractLsb'_zero _ 3

/-- The low four bits of a byte, one for each plane. -/
theorem getLsbD_extractLsb'_plane (x : Byte) :
    (x.extractLsb' 0 4).getLsbD i.toNat = x.getLsbD i.toNat := by
  simp [i.isLt]

end

/-! ## Writing (R735, R736) -/

/-- One lane of `ALU` (R736), old being the latch's. -/
def aluLane (op : BitVec 2) (old x : Byte) : Byte :=
  match op.toNat with
  | 0 => x
  | 1 => x &&& old
  | 2 => x ||| old
  | _ => x ^^^ old

/-- One lane of `BitMask` (R736). -/
def bitMaskLane (mask old x : Byte) : Byte := (x &&& mask) ||| (old &&& ~~~mask)

/-- The lane of U that plane i stores (R735), from the registers' bytes. -/
def Video.planarLane (v : Video) (b : Byte) (i : BitVec 2) : Byte :=
  let old := lane v.latch i.toNat
  let rotated := b.rotateRight (v.gcReg 3 &&& 7#8).toNat
  let setReset := fill8 ((v.gcReg 0).getLsbD i.toNat)
  match (v.gcReg 5 &&& 3#8).toNat with
  | 0 => bitMaskLane v.bitMask old (aluLane v.logicOp old (if (v.gcReg 1).getLsbD i.toNat then setReset else rotated))
  | 1 => old
  | 2 => bitMaskLane v.bitMask old (aluLane v.logicOp old (fill8 (b.getLsbD i.toNat)))
  | _ => if (v.bitMask &&& rotated).getLsbD i.toNat then setReset else old

section
variable (v : Video) (i : BitVec 2)

@[simp] theorem Video.lane_alu (x : BitVec 32) (n : Nat) :
    lane (v.alu x) n = aluLane v.logicOp (lane v.latch n) (lane x n) := by
  unfold Video.alu aluLane
  generalize v.logicOp.toNat = op
  rcases op with _ | _ | _ | op
  exacts [rfl, lane_and .., lane_or .., lane_xor ..]

@[simp] theorem Video.lane_bitMaskMux (t : BitVec 32) :
    lane (v.bitMaskMux t) i.toNat = bitMaskLane v.bitMask (lane v.latch i.toNat) (lane t i.toNat) := by
  simp [Video.bitMaskMux, bitMaskLane]

/-- R735: each lane of U depends on that lane of the latch alone. -/
theorem Video.lane_planarData (b : Byte) : lane (v.planarData b) i.toNat = v.planarLane b i := by
  have hi : i.toNat < 4 := i.isLt
  unfold Video.planarData Video.planarLane ror8
  simp only [Video.toNat_writeMode, Video.toNat_rotCount]
  generalize (v.gcReg 5 &&& 3#8).toNat = mode
  rcases mode with _ | _ | _ | mode
  case zero => cases hsr : (v.gcReg 1).getLsbD i.toNat <;> simp [hi, hsr, select_fill8, Video.srEnable, Video.srValue]
  case succ.zero => rfl
  case succ.succ.zero => simp [hi]
  case succ.succ.succ => simp [hi, select_fill8, Video.srValue]

theorem Planes.planeGet_store (p : Planes) (pwe : BitVec 4) (a : Nat) (u : BitVec 32) (i : BitVec 2) :
    planeGet ((p.store pwe a u).plane i) a =
      if pwe.getLsbD i.toNat then lane u i.toNat else planeGet (p.plane i) a := by
  revert i
  rw [forall_plane_iff]
  simp [Planes.store, Planes.plane, planeGet_planeStore]

theorem Video.planeGet_planarStore (a : Nat) (b : Byte) :
    planeGet ((v.planarStore a b).planes.plane i) a =
      if (v.seqReg 2).getLsbD i.toNat then v.planarLane b i else planeGet (v.planes.plane i) a := by
  rw [← Video.lane_planarData, ← getLsbD_extractLsb'_plane]
  exact v.planes.planeGet_store ..

end

theorem write8_aperture {s : State} {a : Linear} (ha : inAperture a = true) (hro : isReadonly a s = false) (b : Byte) :
    write8 a b s = s.setVideo (s.video.planarStore (apertureOffset a) b) := by
  simp [write8, ha, hro]

/-- Settles O33: a write is `planarStore`, whose lanes are those of `planarLane`. -/
theorem planarWrites : Obligations.PlanarWrites := by
  intro s a b i ha hro
  rw [write8_aperture ha hro]
  exact ⟨s.video.planeGet_planarStore i _ b, fun j hj => s.video.planeGet_planarStore_other i b hj, rfl⟩

end Sys2Proof.Machine
end

section
/-! PROOFS. The decoder and the encoder are inverse to each other (spec/30_encoding.md R172 to R201). -/

namespace Sys2Proof

/-! ## Decoding an encoding -/

/-- Settles O2, by the constructor: each has its lemma of the family RoundTrip. -/
theorem decodeAfterEncodeIsIdentity : Obligations.DecodeAfterEncodeIsIdentity := by
  intro ext i rest
  revert ext rest
  change Laws.RoundTrip.Statement i
  open Laws.RoundTrip in
  cases i with
  | prefixES => exact prefixES
  | prefixCS => exact prefixCS
  | prefixSS => exact prefixSS
  | prefixDS => exact prefixDS
  | lock => exact lock
  | repne => exact repne
  | rep => exact rep
  | mov f => exact mov f
  | movEImm f => exact movEImm f
  | movRegImm f => exact movRegImm f
  | movMoffs f => exact movMoffs f
  | movFromSreg rm sr => exact movFromSreg rm sr
  | movToSreg sr rm => exact movToSreg sr rm
  | movCS rm => exact movCS rm
  | reservedSreg m k rm => exact reservedSreg m k rm
  | pushReg r => exact pushReg r
  | popReg r => exact popReg r
  | pushSreg sr => exact pushSreg sr
  | popSreg sr => exact popSreg sr
  | pushE rm => exact pushE rm
  | popE rm => exact popE rm
  | xchg f => exact xchg f
  | xchgAX r => exact xchgAX r
  | nop => exact nop
  | lea g rm => exact lea g rm
  | lds g rm => exact lds g rm
  | les g rm => exact les g rm
  | xlat => exact xlat
  | inImm a port => exact inImm a port
  | inDX a => exact inDX a
  | outImm port a => exact outImm port a
  | outDX a => exact outDX a
  | lahf => exact lahf
  | sahf => exact sahf
  | pushf => exact pushf
  | popf => exact popf
  | cbw => exact cbw
  | cwd => exact cwd
  | add f => exact add f
  | adc f => exact adc f
  | sub f => exact sub f
  | sbb f => exact sbb f
  | cmp f => exact cmp f
  | incReg r => exact incReg r
  | incE e => exact incE e
  | decReg r => exact decReg r
  | decE e => exact decE e
  | neg e => exact neg e
  | mul e => exact mul e
  | imul e => exact imul e
  | div e => exact div e
  | idiv e => exact idiv e
  | daa => exact daa
  | das => exact das
  | aaa => exact aaa
  | aas => exact aas
  | aam i => exact aam i
  | aad i => exact aad i
  | and f => exact and f
  | or f => exact or f
  | xor f => exact xor f
  | test f => exact test f
  | not e => exact not e
  | rol e c => exact rol e c
  | ror e c => exact ror e c
  | rcl e c => exact rcl e c
  | rcr e c => exact rcr e c
  | shl e c => exact shl e c
  | shr e c => exact shr e c
  | sar e c => exact sar e c
  | movsb => exact movsb
  | movsw => exact movsw
  | cmpsb => exact cmpsb
  | cmpsw => exact cmpsw
  | scasb => exact scasb
  | scasw => exact scasw
  | lodsb => exact lodsb
  | lodsw => exact lodsw
  | stosb => exact stosb
  | stosw => exact stosw
  | jmpShort rel => exact jmpShort rel
  | jmpNear rel => exact jmpNear rel
  | jmpFar off seg => exact jmpFar off seg
  | jmpE rm => exact jmpE rm
  | jmpM rm => exact jmpM rm
  | callNear rel => exact callNear rel
  | callFar off seg => exact callFar off seg
  | callE rm => exact callE rm
  | callM rm => exact callM rm
  | ret => exact ret
  | retImm n => exact retImm n
  | retf => exact retf
  | retfImm n => exact retfImm n
  | jo rel => exact jo rel
  | jno rel => exact jno rel
  | jb rel => exact jb rel
  | jnb rel => exact jnb rel
  | jz rel => exact jz rel
  | jnz rel => exact jnz rel
  | jbe rel => exact jbe rel
  | ja rel => exact ja rel
  | js rel => exact js rel
  | jns rel => exact jns rel
  | jp rel => exact jp rel
  | jnp rel => exact jnp rel
  | jl rel => exact jl rel
  | jge rel => exact jge rel
  | jle rel => exact jle rel
  | jg rel => exact jg rel
  | loop rel => exact loop rel
  | loopz rel => exact loopz rel
  | loopnz rel => exact loopnz rel
  | jcxz rel => exact jcxz rel
  | int n => exact int n
  | int3 => exact int3
  | into => exact into
  | iret => exact iret
  | clc => exact clc
  | stc => exact stc
  | cmc => exact cmc
  | cld => exact cld
  | std => exact std
  | cli => exact cli
  | sti => exact sti
  | hlt => exact hlt
  | wait => exact wait
  | esc x reg rm => exact esc x reg rm
  | pusha => exact pusha
  | popa => exact popa
  | bound g rm => exact bound g rm
  | pushIw i => exact pushIw i
  | pushIbs i => exact pushIbs i
  | imulImm g rm k => exact imulImm g rm k
  | insb => exact insb
  | insw => exact insw
  | outsb => exact outsb
  | outsw => exact outsw
  | enter size level => exact enter size level
  | leave => exact leave
  | undefByte op => exact undefByte op
  | undefSlot op reg rm => exact undefSlot op reg rm

/-! ## What a parser reads -/

/-- `p` succeeds on any n bytes; what it reads is the front of its bytes, n of them at most, which `Q` relates to the
value. -/
structure Parser.Reads {α : Type} (n : Nat) (Q : α → List Byte → Prop) (p : Parser α) : Prop where
  total : ∀ bytes : List Byte, n ≤ bytes.length → ∃ r, p bytes = .ok r
  front : ∀ {bytes rest : List Byte} {a : α}, p bytes = .ok (a, rest) →
    ∃ used, used.length ≤ n ∧ bytes = used ++ rest ∧ Q a used

theorem byte_reads : byte.Reads 1 (fun b used => used = [b]) where
  total bytes hn := by
    obtain ⟨b, rest, rfl⟩ := List.exists_cons_of_length_pos hn
    exact ⟨_, rfl⟩
  front {bytes rest b} h := by
    cases bytes with
    | nil => cases h
    | cons c bytes => cases h; exact ⟨[b], by simp, rfl, rfl⟩

theorem wordBytes_append (hi lo : Byte) : wordBytes (hi ++ lo) = [lo, hi] := by
  rw [wordBytes, show (hi ++ lo).extractLsb' 0 8 = lo from Machine.lowByte_append hi lo,
    show (hi ++ lo).extractLsb' 8 8 = hi from Machine.highByte_append hi lo]

theorem word_reads : word.Reads 2 (fun w used => used = wordBytes w) where
  total bytes hn := by
    match bytes, hn with
    | lo :: hi :: rest, _ => exact ⟨_, rfl⟩
  front {bytes rest w} h := by
    match bytes, h with
    | lo :: hi :: _, h => cases h; exact ⟨[lo, hi], by simp, rfl, (wordBytes_append hi lo).symm⟩

section
variable {α β : Type} {m n : Nat} {p : Parser α} {Q : α → List Byte → Prop} {R : β → List Byte → Prop}

theorem Parser.pure_reads {a : α} (h : Q a []) : (Parser.pure a).Reads n Q where
  total bytes _ := ⟨_, rfl⟩
  front h' := by cases h'; exact ⟨[], by simp, rfl, h⟩

theorem Parser.Reads.mono (hp : p.Reads m Q) (h : m ≤ n) : p.Reads n Q where
  total bytes hn := hp.total bytes (h.trans hn)
  front h' := by
    obtain ⟨used, hu, hb, hq⟩ := hp.front h'
    exact ⟨used, hu.trans h, hb, hq⟩

theorem Parser.Reads.bind {f : α → Parser β} (hp : p.Reads m Q)
    (hf : ∀ a used, Q a used → (f a).Reads n (fun b more => R b (used ++ more))) : (p.bind f).Reads (m + n) R where
  total bytes hn := by
    obtain ⟨⟨a, rest⟩, h⟩ := hp.total bytes (by omega)
    obtain ⟨used, hu, rfl, hq⟩ := hp.front h
    rw [List.length_append] at hn
    rw [Parser.bind_ok h]
    exact (hf a used hq).total rest (by omega)
  front {bytes rest b} h := by
    unfold Parser.bind at h
    split at h
    · next a mid hp' =>
      obtain ⟨used, hu, rfl, hq⟩ := hp.front hp'
      obtain ⟨more, hm, rfl, hr⟩ := (hf a used hq).front h
      exact ⟨used ++ more, by rw [List.length_append]; omega, (List.append_assoc ..).symm, hr⟩
    · cases h

theorem Parser.Reads.map {f : α → β} (hp : p.Reads n Q) (hf : ∀ a used, Q a used → R (f a) used) :
    (p.map f).Reads n R where
  total bytes hn := by
    obtain ⟨⟨a, rest⟩, h⟩ := hp.total bytes hn
    exact ⟨_, Parser.map_ok h⟩
  front {bytes rest b} h := by
    unfold Parser.map at h
    split at h
    · next a mid hp' =>
      cases h
      obtain ⟨used, hu, hb, hq⟩ := hp.front hp'
      exact ⟨used, hu, hb, hf a used hq⟩
    · cases h

end

/-! ## ModR/M -/

/-- R30: a digit names the register whose code it is. -/
theorem Oct.code8 (o : Oct) : (Reg8.ofOct o).code = o.toBits := by cases o <;> rfl
theorem Oct.code16 (o : Oct) : (Reg16.ofOct o).code = o.toBits := by cases o <;> rfl

/-- The bytes are the ModR/M byte and displacement of a `reg` digit and an rm operand, at either width. -/
structure ModRMBytes (reg : Oct) (rm : RM Oct) (used : List Byte) : Prop where
  wf8 : RM.wf (asRM8 rm) = true
  wf16 : RM.wf (asRM16 rm) = true
  bytes8 : RM8.encode reg.toBits (asRM8 rm) = used
  bytes16 : RM16.encode reg.toBits (asRM16 rm) = used

theorem modRMBytes_mem {reg : Oct} {m : MemOp} {used : List Byte} (hw : m.wf = true) (h : m.encode reg.toBits = used) :
    ModRMBytes reg (.mem m) used := ⟨hw, hw, h, h⟩

/-- R180: a byte is its three fields. -/
theorem modRMByte_fields (b : Byte) : modRMByte (b.extractLsb' 6 2) (octMid b).toBits (octLow b).toBits = b := by
  rw [octMid, octLow, Oct.toBits_ofBits, Oct.toBits_ofBits]
  revert b
  decide

/-- R181: without a displacement rm 6 is no base, but a direct address. -/
theorem EaBase.wf_base_ofOct {rm : Oct} (h : rm ≠ .o6) : MemOp.wf (.base (.ofOct rm)) = true := by
  cases rm <;> trivial

theorem modRM_reads : modRM.Reads 3 (fun x used => ModRMBytes x.1 x.2 used) := by
  refine byte_reads.bind (n := 2) fun b used hb => ?_
  subst hb
  have hfields := modRMByte_fields b
  generalize octMid b = reg at hfields ⊢
  generalize octLow b = rm at hfields ⊢
  generalize b.extractLsb' 6 2 = mod at hfields ⊢
  subst hfields
  obtain rfl | rfl | rfl | rfl : mod = 0 ∨ mod = 1 ∨ mod = 2 ∨ mod = 3 := by revert mod; decide
  · by_cases hrm : rm = .o6
    · subst hrm
      exact word_reads.map fun d more hd => modRMBytes_mem rfl (by rw [hd]; rfl)
    · have hbase := EaBase.wf_base_ofOct hrm
      cases rm
      case o6 => exact absurd rfl hrm
      all_goals exact Parser.pure_reads (modRMBytes_mem hbase rfl)
  · refine Parser.Reads.mono ?_ (show 1 ≤ 2 by decide)
    cases rm <;> exact byte_reads.map fun d more hd => modRMBytes_mem rfl (by rw [hd]; rfl)
  · cases rm <;> exact word_reads.map fun d more hd => modRMBytes_mem rfl (by rw [hd]; rfl)
  · cases rm <;> exact Parser.pure_reads ⟨rfl, rfl, rfl, rfl⟩

/-! ## The opcode map (R195 to R199) -/

/-- The opcode of three octal digits `q x y`. -/
def opcode (q : BitVec 2) (x y : Oct) : Byte := q ++ x.toBits ++ y.toBits

theorem opcode_digits (op : Byte) : opcode (op.extractLsb' 6 2) (octMid op) (octLow op) = op := modRMByte_fields op

/-- The instruction exists, and its encoding is the opcode and the bytes read after it. -/
def Encodes (ext : Bool) (op : Byte) (i : Instr) (used : List Byte) : Prop :=
  i.wf ext = true ∧ encode i = op :: used

section
variable {ext : Bool} {op : Byte}

/-- The shapes of the map's entries: no further byte, one, a word, a ModR/M, and one with more after it. -/
theorem entry_pure {n : Nat} {i : Instr} (hw : i.wf ext = true) (he : encode i = [op]) :
    (Parser.pure i).Reads n (Encodes ext op) := Parser.pure_reads ⟨hw, he⟩

theorem entry_byte {f : Byte → Instr} (hw : ∀ b, (f b).wf ext = true) (he : ∀ b, encode (f b) = [op, b]) :
    (byte.map f).Reads 5 (Encodes ext op) :=
  (byte_reads.map fun b used hb => ⟨hw b, by rw [hb, he]⟩).mono (by decide)

theorem entry_word {f : Word → Instr} (hw : ∀ w, (f w).wf ext = true) (he : ∀ w, encode (f w) = op :: wordBytes w) :
    (word.map f).Reads 5 (Encodes ext op) :=
  (word_reads.map fun w used h => ⟨hw w, by rw [h, he]⟩).mono (by decide)

theorem entry_modRM {f : Oct × RM Oct → Instr}
    (h : ∀ reg rm used, ModRMBytes reg rm used → Encodes ext op (f (reg, rm)) used) :
    (modRM.map f).Reads 5 (Encodes ext op) :=
  (modRM_reads.map fun x used hx => h x.1 x.2 used hx).mono (by decide)

theorem entry_modRM_bind {f : Oct × RM Oct → Parser Instr}
    (h : ∀ reg rm used, ModRMBytes reg rm used → (f (reg, rm)).Reads 2 (fun i more => Encodes ext op i (used ++ more))) :
    (modRM.bind f).Reads 5 (Encodes ext op) :=
  modRM_reads.bind (n := 2) fun x used hx => h x.1 x.2 used hx

/-- A byte or a word after a ModR/M. -/
theorem rest_byte {used : List Byte} {f : Byte → Instr} (h : ∀ b, Encodes ext op (f b) (used ++ [b])) :
    (byte.map f).Reads 2 (fun i more => Encodes ext op i (used ++ more)) :=
  (byte_reads.map fun b _ hb => hb ▸ h b).mono (by decide)

theorem rest_word {used : List Byte} {f : Word → Instr} (h : ∀ w, Encodes ext op (f w) (used ++ wordBytes w)) :
    (word.map f).Reads 2 (fun i more => Encodes ext op i (used ++ more)) :=
  word_reads.map fun w _ hw => hw ▸ h w

theorem rest_pure {used : List Byte} {i : Instr} (h : Encodes ext op i used) :
    (Parser.pure i).Reads 2 (fun i more => Encodes ext op i (used ++ more)) :=
  Parser.pure_reads (by rwa [List.append_nil])

/-- Two words after the opcode (the far pointers), and a word and a byte (ENTER). -/
theorem entry_word_word {f : Word → Word → Instr} (hw : ∀ v w, (f v w).wf ext = true)
    (he : ∀ v w, encode (f v w) = op :: (wordBytes v ++ wordBytes w)) :
    (word.bind fun v => word.map fun w => f v w).Reads 5 (Encodes ext op) :=
  (word_reads.bind (n := 2) fun v used hv => word_reads.map fun w more h => ⟨hw v w, by rw [hv, h, he]⟩).mono (by decide)

theorem entry_word_byte {f : Word → Byte → Instr} (hw : ∀ v b, (f v b).wf ext = true)
    (he : ∀ v b, encode (f v b) = op :: (wordBytes v ++ [b])) :
    (word.bind fun v => byte.map fun b => f v b).Reads 5 (Encodes ext op) :=
  (word_reads.bind (n := 1) fun v used hv => byte_reads.map fun b more h => ⟨hw v b, by rw [hv, h, he]⟩).mono (by decide)

end

/-- The bytes of a ModR/M operand in the encoding of an instruction that has it. -/
theorem ModRMBytes.encodes8 {ext : Bool} {op : Byte} {reg : Oct} {rm : RM Oct} {used : List Byte} {i : Instr}
    (h : ModRMBytes reg rm used) (hw : i.wf ext = RM.wf (asRM8 rm))
    (he : encode i = op :: RM8.encode reg.toBits (asRM8 rm)) : Encodes ext op i used :=
  ⟨hw.trans h.wf8, by rw [he, h.bytes8]⟩

theorem ModRMBytes.encodes16 {ext : Bool} {op : Byte} {reg : Oct} {rm : RM Oct} {used : List Byte} {i : Instr}
    (h : ModRMBytes reg rm used) (hw : i.wf ext = RM.wf (asRM16 rm))
    (he : encode i = op :: RM16.encode reg.toBits (asRM16 rm)) : Encodes ext op i used :=
  ⟨hw.trans h.wf16, by rw [he, h.bytes16]⟩

theorem ModRMBytes.encodes8_append {ext : Bool} {op : Byte} {reg : Oct} {rm : RM Oct} {used more : List Byte} {i : Instr}
    (h : ModRMBytes reg rm used) (hw : i.wf ext = RM.wf (asRM8 rm))
    (he : encode i = op :: (RM8.encode reg.toBits (asRM8 rm) ++ more)) : Encodes ext op i (used ++ more) :=
  ⟨hw.trans h.wf8, by rw [he, h.bytes8]⟩

theorem ModRMBytes.encodes16_append {ext : Bool} {op : Byte} {reg : Oct} {rm : RM Oct} {used more : List Byte} {i : Instr}
    (h : ModRMBytes reg rm used) (hw : i.wf ext = RM.wf (asRM16 rm))
    (he : encode i = op :: (RM16.encode reg.toBits (asRM16 rm) ++ more)) : Encodes ext op i (used ++ more) :=
  ⟨hw.trans h.wf16, by rw [he, h.bytes16]⟩

theorem encode_aluInstr (x : Oct) (f : AluForm) : encode (aluInstr x f) = f.encode x.toBits := by cases x <;> rfl
theorem wf_aluInstr (ext : Bool) (x : Oct) (f : AluForm) : (aluInstr x f).wf ext = f.wf := by cases x <;> rfl

/-- Opcodes 00 to 3F. -/
theorem decode00_reads (ext : Bool) : ∀ x y : Oct, (decode00 (opcode 0 x y) x y).Reads 5 (Encodes ext (opcode 0 x y))
  | x, .o0 => by
    cases x <;> exact entry_modRM fun g _ _ h => h.encodes8 rfl (congrArg (fun c => _ :: RM8.encode c _) g.code8)
  | x, .o1 => by
    cases x <;> exact entry_modRM fun g _ _ h => h.encodes16 rfl (congrArg (fun c => _ :: RM16.encode c _) g.code16)
  | x, .o2 => by
    cases x <;> exact entry_modRM fun g _ _ h => h.encodes8 rfl (congrArg (fun c => _ :: RM8.encode c _) g.code8)
  | x, .o3 => by
    cases x <;> exact entry_modRM fun g _ _ h => h.encodes16 rfl (congrArg (fun c => _ :: RM16.encode c _) g.code16)
  | x, .o4 => by
    cases x <;> exact entry_byte (fun _ => rfl) fun _ => rfl
  | x, .o5 => by
    cases x <;> exact entry_word (fun _ => rfl) fun _ => rfl
  | .o0, .o6 | .o0, .o7 | .o1, .o6 | .o1, .o7 | .o2, .o6 | .o2, .o7 | .o3, .o6 | .o3, .o7
  | .o4, .o6 | .o4, .o7 | .o5, .o6 | .o5, .o7 | .o6, .o6 | .o6, .o7 | .o7, .o6 | .o7, .o7 => entry_pure rfl rfl

/-- Opcodes 60 to 67 and 68 to 6F, when they exist. -/
theorem decode60_reads : ∀ y : Oct, (decode60 (opcode 1 .o4 y) y).Reads 5 (Encodes true (opcode 1 .o4 y))
  | .o2 => entry_modRM fun g _ _ h => h.encodes16 rfl (congrArg (fun c => _ :: RM16.encode c _) g.code16)
  | .o0 | .o1 | .o3 | .o4 | .o5 | .o6 | .o7 => entry_pure rfl rfl

theorem decode68_reads : ∀ y : Oct, (decode68 y).Reads 5 (Encodes true (opcode 1 .o5 y))
  | .o0 => entry_word (fun _ => rfl) fun _ => rfl
  | .o1 => entry_modRM_bind fun g _ _ h => rest_word fun _ =>
    h.encodes16_append rfl (congrArg (fun c => _ :: (RM16.encode c _ ++ _)) g.code16)
  | .o2 => entry_byte (fun _ => rfl) fun _ => rfl
  | .o3 => entry_modRM_bind fun g _ _ h => rest_byte fun _ =>
    h.encodes16_append rfl (congrArg (fun c => _ :: (RM16.encode c _ ++ _)) g.code16)
  | .o4 | .o5 | .o6 | .o7 => entry_pure rfl rfl

/-- Opcodes 40 to 7F. -/
theorem decode40_reads (ext : Bool) :
    ∀ x y : Oct, (decode40 ext (opcode 1 x y) x y).Reads 5 (Encodes ext (opcode 1 x y))
  | .o0, r => entry_pure rfl (by cases r <;> rfl)
  | .o1, r => entry_pure rfl (by cases r <;> rfl)
  | .o2, r => entry_pure rfl (by cases r <;> rfl)
  | .o3, r => entry_pure rfl (by cases r <;> rfl)
  | .o4, y => by
    cases ext
    · exact entry_pure (by cases y <;> rfl) rfl
    · exact decode60_reads y
  | .o5, y => by
    cases ext
    · exact entry_pure (by cases y <;> rfl) rfl
    · exact decode68_reads y
  | .o6, .o0 | .o6, .o1 | .o6, .o2 | .o6, .o3 | .o6, .o4 | .o6, .o5 | .o6, .o6 | .o6, .o7
  | .o7, .o0 | .o7, .o1 | .o7, .o2 | .o7, .o3 | .o7, .o4 | .o7, .o5 | .o7, .o6 | .o7, .o7 =>
    entry_byte (fun _ => rfl) fun _ => rfl

/-- Opcodes 80 to BF. -/
theorem decode80_reads (ext : Bool) : ∀ x y : Oct, (decode80 (opcode 2 x y) x y).Reads 5 (Encodes ext (opcode 2 x y))
  | .o0, .o0 | .o0, .o2 => entry_modRM_bind fun x rm _ h => rest_byte fun i => by
    cases x <;> exact h.encodes8_append rfl rfl
  | .o0, .o1 => entry_modRM_bind fun x rm _ h => rest_word fun i => by
    cases x <;> exact h.encodes16_append rfl rfl
  | .o0, .o3 => entry_modRM_bind fun x rm _ h => rest_byte fun i => by
    cases x <;> exact h.encodes16_append rfl rfl
  | .o0, .o4 | .o0, .o6 | .o1, .o0 | .o1, .o2 =>
    entry_modRM fun g _ _ h => h.encodes8 rfl (congrArg (fun c => _ :: RM8.encode c _) g.code8)
  | .o0, .o5 | .o0, .o7 | .o1, .o1 | .o1, .o3 | .o1, .o5 =>
    entry_modRM fun g _ _ h => h.encodes16 rfl (congrArg (fun c => _ :: RM16.encode c _) g.code16)
  | .o1, .o4 | .o1, .o6 => entry_modRM fun k rm _ h => by cases k <;> exact h.encodes16 rfl rfl
  | .o1, .o7 => entry_modRM fun k rm _ h => by cases k <;> exact h.encodes16 rfl rfl
  | .o2, y => by cases y <;> exact entry_pure rfl rfl
  | .o3, .o2 => entry_word_word (fun _ _ => rfl) fun _ _ => rfl
  | .o3, .o0 | .o3, .o1 | .o3, .o3 | .o3, .o4 | .o3, .o5 | .o3, .o6 | .o3, .o7 => entry_pure rfl rfl
  | .o4, .o0 | .o4, .o1 | .o4, .o2 | .o4, .o3 => entry_word (fun _ => rfl) fun _ => rfl
  | .o4, .o4 | .o4, .o5 | .o4, .o6 | .o4, .o7 => entry_pure rfl rfl
  | .o5, .o0 => entry_byte (fun _ => rfl) fun _ => rfl
  | .o5, .o1 => entry_word (fun _ => rfl) fun _ => rfl
  | .o5, .o2 | .o5, .o3 | .o5, .o4 | .o5, .o5 | .o5, .o6 | .o5, .o7 => entry_pure rfl rfl
  | .o6, r => entry_byte (fun _ => rfl) fun _ => by cases r <;> rfl
  | .o7, r => entry_word (fun _ => rfl) fun _ => by cases r <;> rfl

/-- Opcodes C0 to FF. -/
theorem decodeC0_reads (ext : Bool) :
    ∀ x y : Oct, (decodeC0 ext (opcode 3 x y) x y).Reads 5 (Encodes ext (opcode 3 x y))
  | .o0, .o0 => entry_modRM_bind fun reg rm _ h => by
    cases reg
    case o6 => exact rest_pure (h.encodes16 rfl rfl)
    all_goals exact rest_byte fun _ => h.encodes8_append rfl rfl
  | .o0, .o1 => entry_modRM_bind fun reg rm _ h => by
    cases reg
    case o6 => exact rest_pure (h.encodes16 rfl rfl)
    all_goals exact rest_byte fun _ => h.encodes16_append rfl rfl
  | .o0, .o6 => entry_modRM_bind fun reg rm _ h => by
    cases reg
    case o0 => exact rest_byte fun _ => h.encodes8_append rfl rfl
    all_goals exact rest_pure (h.encodes16 rfl rfl)
  | .o0, .o7 => entry_modRM_bind fun reg rm _ h => by
    cases reg
    case o0 => exact rest_word fun _ => h.encodes16_append rfl rfl
    all_goals exact rest_pure (h.encodes16 rfl rfl)
  | .o0, .o2 => entry_word (fun _ => rfl) fun _ => rfl
  | .o0, .o3 => entry_pure rfl rfl
  | .o0, .o4 | .o0, .o5 => entry_modRM fun g _ _ h => h.encodes16 rfl (congrArg (fun c => _ :: RM16.encode c _) g.code16)
  | .o1, .o0 => by
    cases ext
    · exact entry_pure rfl rfl
    · exact entry_word_byte (fun _ _ => rfl) fun _ _ => rfl
  | .o1, .o1 => by cases ext <;> exact entry_pure rfl rfl
  | .o1, .o2 => entry_word (fun _ => rfl) fun _ => rfl
  | .o1, .o5 => entry_byte (fun _ => rfl) fun _ => rfl
  | .o1, .o3 | .o1, .o4 | .o1, .o6 | .o1, .o7 => entry_pure rfl rfl
  | .o2, .o0 | .o2, .o2 => entry_modRM fun reg rm _ h => by
    cases reg
    case o6 => exact h.encodes16 rfl rfl
    all_goals exact h.encodes8 rfl rfl
  | .o2, .o1 | .o2, .o3 => entry_modRM fun reg rm _ h => by cases reg <;> exact h.encodes16 rfl rfl
  | .o2, .o4 | .o2, .o5 => entry_byte (fun _ => rfl) fun _ => rfl
  | .o2, .o6 | .o2, .o7 => entry_pure rfl rfl
  | .o3, x => entry_modRM fun reg rm _ h => h.encodes16 rfl (by cases x <;> rfl)
  | .o4, .o0 | .o4, .o1 | .o4, .o2 | .o4, .o3 | .o4, .o4 | .o4, .o5 | .o4, .o6 | .o4, .o7 =>
    entry_byte (fun _ => rfl) fun _ => rfl
  | .o5, .o0 | .o5, .o1 => entry_word (fun _ => rfl) fun _ => rfl
  | .o5, .o2 => entry_word_word (fun _ _ => rfl) fun _ _ => rfl
  | .o5, .o3 => entry_byte (fun _ => rfl) fun _ => rfl
  | .o5, .o4 | .o5, .o5 | .o5, .o6 | .o5, .o7 => entry_pure rfl rfl
  | .o6, .o6 => entry_modRM_bind fun reg rm _ h => by
    cases reg
    case o0 => exact rest_byte fun _ => h.encodes8_append rfl rfl
    case o1 => exact rest_pure (h.encodes16 rfl rfl)
    all_goals exact rest_pure (h.encodes8 rfl rfl)
  | .o6, .o7 => entry_modRM_bind fun reg rm _ h => by
    cases reg
    case o0 => exact rest_word fun _ => h.encodes16_append rfl rfl
    all_goals exact rest_pure (h.encodes16 rfl rfl)
  | .o6, .o0 | .o6, .o1 | .o6, .o2 | .o6, .o3 | .o6, .o4 | .o6, .o5 => entry_pure rfl rfl
  | .o7, .o6 => entry_modRM fun reg rm _ h => by
    cases reg
    case o0 | o1 => exact h.encodes8 rfl rfl
    all_goals exact h.encodes16 rfl rfl
  | .o7, .o7 => entry_modRM fun reg rm _ h => by cases reg <;> exact h.encodes16 rfl rfl
  | .o7, .o0 | .o7, .o1 | .o7, .o2 | .o7, .o3 | .o7, .o4 | .o7, .o5 => entry_pure rfl rfl

/-- R195, R172: every opcode reads at most five bytes after it, and gives an instruction that they encode. -/
theorem decodeOp_reads (ext : Bool) (op : Byte) : (decodeOp ext op).Reads 5 (Encodes ext op) := by
  have hop := opcode_digits op
  unfold decodeOp
  generalize octMid op = x at hop ⊢
  generalize octLow op = y at hop ⊢
  generalize op.extractLsb' 6 2 = q at hop ⊢
  subst hop
  obtain rfl | rfl | rfl | rfl : q = 0 ∨ q = 1 ∨ q = 2 ∨ q = 3 := by revert q; decide
  · exact decode00_reads ext x y
  · exact decode40_reads ext x y
  · exact decode80_reads ext x y
  · exact decodeC0_reads ext x y

/-- What `decode` reads: an instruction that exists, by its encoding, of one to six bytes. -/
theorem decode_reads (ext : Bool) :
    (decode ext).Reads 6 (fun i used => i.wf ext = true ∧ encode i = used ∧ used ≠ []) :=
  byte_reads.bind (n := 5) fun op used hop => by
    subst hop
    have h := decodeOp_reads ext op
    exact ⟨h.total, fun hb => (h.front hb).imp fun _ ⟨hn, hb, hw, he⟩ => ⟨hn, hb, hw, he, by simp⟩⟩

/-- Settles O3: what was read is the front of the bytes. -/
theorem encodeAfterDecodeIsIdentity : Obligations.EncodeAfterDecodeIsIdentity := by
  intro ext bytes rest i h
  obtain ⟨used, -, rfl, hw, rfl, -⟩ := (decode_reads ext).front h
  exact ⟨hw, rfl⟩

/-- Settles O4: `decode` is total on six bytes, and its instruction's encoding is what it read of them. -/
theorem everySixBytesDecode : Obligations.EverySixBytesDecode := by
  intro ext bytes hn
  obtain ⟨⟨i, rest⟩, h⟩ := (decode_reads ext).total bytes hn
  obtain ⟨used, hu, rfl, -, -, hne⟩ := (decode_reads ext).front h
  have hpos := List.length_pos_iff.2 hne
  refine ⟨i, rest, h, ?_⟩
  rw [List.length_append]
  omega

/-- Settles O1: the decoder evaluates on each word. -/
theorem specWordsDecode : Obligations.SpecWordsDecode :=
  ⟨rfl, rfl, rfl, rfl, rfl, rfl, rfl, rfl, rfl, rfl, rfl, rfl, rfl, rfl, rfl⟩

end Sys2Proof
end

section
/-! PROOFS. What a step can do, case by case, and the rules that every step keeps (spec/60_exceptions.md R790,
spec/70_reset_and_hazards.md R870 to R873). -/

namespace Sys2Proof.Machine

/-! ## What a step can do -/

/-- The fetch answers an instruction that exists, and moves past its bytes. -/
theorem fetch_ok {s t : State} {i : Instr} (h : fetch s = .ok (i, t)) :
    i.wf s.params.ext186 = true ∧ ∃ n, t = fetchBytes n s := by
  unfold fetch at h
  split at h
  · rename_i j rest hd
    cases h
    exact ⟨(encodeAfterDecodeIsIdentity _ _ _ _ hd).1, _, rfl⟩
  · cases h

theorem singleStep_next {b : Bool} {s t : State} (h : singleStep b s = .next t) :
    t = s ∨ t = s.setBatch none ∨ interrupt 1 s.ip s = .next t := by
  unfold singleStep at h
  split at h
  · split at h
    · exact .inr (.inr h)
    · cases h; exact .inl rfl
  · cases h; exact .inr (.inl rfl)

/-- What a slot can do: count itself alone, hang before its instruction, or run one from empty slots and end it. -/
theorem batchSlot_next {k : Nat} {s t : State} (h : batchSlot k s = .next t) :
    (∃ b, t = s.setBatch b) ∨ ∃ u, prefixLoop (maxPrefixes + 1) (beginInstr (s.setBatch (some k))) = some (.next u) ∧
      singleStep (flag .tf s) (endInstr u) = .next t := by
  unfold batchSlot instrCycle at h
  split at h
  · cases hp : prefixLoop (maxPrefixes + 1) (beginInstr (s.setBatch (some k))) with
    | none =>
      rw [hp] at h
      cases h
      exact .inl ⟨_, rfl⟩
    | some a =>
      rw [hp] at h
      change finishInstr (flag .tf s) a = .next t at h
      cases a with
      | next u => exact .inr ⟨u, rfl, h⟩
      | fault r => cases h
      | refused r => cases h
  all_goals cases h; exact .inl ⟨_, rfl⟩

/-- The CPU a boundary looks at: after the hard reset, if one is due (R790). -/
def afterHardReset (s : State) : State := if s.hardReset then hardResetCpu s else s

theorem boundary_eq (s : State) : boundary s = boundaryPoll (afterHardReset s) := rfl

theorem boundaryPoll_next {s t : State} (h : boundaryPoll s = .next t) :
    t = s.setRun .stopped ∨ t = s ∨ ∃ n pic, interrupt n s.ip (s.setPic pic) = .next t := by
  unfold boundaryPoll at h
  split at h
  · cases h; exact .inl rfl
  · split at h
    · exact .inr (.inr ⟨_, _, h⟩)
    · cases h; exact .inr (.inl rfl)

theorem advance_next {s t : State} (h : advance s = .next t) :
    (∃ k, batchSlot k s = .next t) ∨ s.batch = some 0 ∧ boundary (s.setBatch none) = .next t := by
  unfold advance at h
  split at h
  · exact .inl ⟨_, h⟩
  · rename_i hb; exact .inr ⟨hb, h⟩
  · exact .inl ⟨_, h⟩

/-- What a step can do while the run goes on: let the loop go on, or do a due event. -/
theorem hostStep_next {s t : State} (h : hostStep s = .next t) :
    advance s = .next t ∨
      ∃ e rest, s.events = e :: rest ∧ isDue e s = true ∧ applyEvent e (s.setEvents rest) = .next t := by
  unfold hostStep at h
  split at h
  · exact .inl h
  · rename_i e rest he
    split at h
    · exact .inr ⟨e, rest, he, ‹_›, h⟩
    · exact .inl h

/-- After the end of the run: an eject (R873), or what the end leaves. -/
theorem afterRun_next {s t : State} {a : Answer} (h : afterRun s a = .next t) :
    a = .next t ∨ ∃ e rest, s.events = e :: rest ∧ ((∃ d, e = .eject d) ∨ e = .shutdown) ∧
      applyEvent e (s.setEvents rest) = .next t := by
  unfold afterRun at h
  split at h
  · exact .inr ⟨_, _, ‹_›, .inl ⟨_, rfl⟩, h⟩
  · exact .inr ⟨_, _, ‹_›, .inr rfl, h⟩
  · exact .inl h

/-- What a step can do: let the loop go on, nothing, or an event. -/
theorem step_next {s t : State} (h : step s = .next t) :
    advance s = .next t ∨ t = s ∨ ∃ e rest, s.events = e :: rest ∧
      (isDue e s = true ∨ (∃ d, e = .eject d) ∨ e = .shutdown) ∧ applyEvent e (s.setEvents rest) = .next t := by
  unfold step at h
  split at h
  · obtain h | ⟨e, rest, he, hx, ht⟩ := afterRun_next h
    · cases h
    · exact .inr (.inr ⟨e, rest, he, .inr hx, ht⟩)
  · obtain h | ⟨e, rest, he, hx, ht⟩ := afterRun_next h
    · cases h; exact .inr (.inl rfl)
    · exact .inr (.inr ⟨e, rest, he, .inr hx, ht⟩)
  all_goals
    obtain h | ⟨e, rest, he, hd, ht⟩ := hostStep_next h
    · exact .inl h
    · exact .inr (.inr ⟨e, rest, he, .inl hd, ht⟩)

/-- The events that set the machine up: its drives and its ROM. -/
def setsUp : HostEvent → Bool
  | .loadRom _ _ | .insertImage _ _ _ | .insertRaw _ _ _ _ _ _ | .eject _ | .setBootDrive _ | .shutdown => true
  | .step _ | .pass | .raise _ | .addTicks _ | .stop | .hardReset => false

theorem applyEvent_shutdown (s : State) : applyEvent .shutdown s = .next (shutdown s) := rfl

/-! ## A property that instructions and the host's loop keep -/

/-- `P` is kept by everything an instruction may do and by what the loop around it sets. -/
structure LoopStable (P : State → Prop) : Prop where
  instr : ∀ i, Stable i P
  instrIP : ∀ s v, P s → P (s.setInstrIP v)
  batch : ∀ s b, P s → P (s.setBatch b)
  events : ∀ s e, P s → P (s.setEvents e)
  pic : ∀ s p, P s → P (s.setPic p)
  hostRunning : ∀ s b, P s → P (s.setHostRunning b)
  hardReset : ∀ s b, P s → P (s.setHardReset b)

theorem Stable.onFetchBytes {i : Instr} {P : State → Prop} (h : Stable i P) (n : Nat) {s : State} (hs : P s) :
    P (fetchBytes n s) := by
  induction n generalizing s with
  | zero => exact hs
  | succ n ih => exact ih (h.ip _ _ (h.touch8 _ _ hs))

namespace LoopStable

variable {P : State → Prop} (h : LoopStable P)
include h

theorem onSegOverride {s : State} (o : Option Sreg) (hs : P s) : P (s.setSegOverride o) :=
  (h.instr .lock).segOverride _ _ rfl hs
theorem onRep {s : State} (o : Option RepPrefix) (hs : P s) : P (s.setRep o) := (h.instr .lock).rep _ _ rfl hs
theorem onRun {s : State} (r : Run) (hs : P s) : P (s.setRun r) := (h.instr .hlt).run _ _ rfl hs
theorem onInterrupt {s t : State} {n : Byte} {ret : Word} (he : interrupt n ret s = .next t) (hs : P s) : P t :=
  (h.instr (.int n)).onInterrupt rfl he hs

theorem onBeginInstr {s : State} (hs : P s) : P (beginInstr s) := h.instrIP _ _ (h.onRep _ (h.onSegOverride _ hs))
theorem onEndInstr {s : State} (hs : P s) : P (endInstr s) := h.instrIP _ _ (h.onRep _ (h.onSegOverride _ hs))

theorem onSregs {s : State} (r : Sregs) (hs : P s) : P (s.setSregs r) :=
  have set k v {s : State} (hs : P s) : P (setSreg k v s) := (h.instr .iret).sreg _ _ _ (fun _ => rfl) hs
  set .ds r.ds (set .ss r.ss (set .cs r.cs (set .es r.es hs)))

theorem onHardResetCpu {s : State} (hs : P s) : P (hardResetCpu s) :=
  have hregs := (h.instr .nop).draws _ (s.draws + 8) ((h.instr .nop).regs _ (drawRegs s.draws) hs)
  have hflags := (h.instr .popf).flags _ .reset (.inl rfl) (.inl rfl) (.inl rfl)
    ((h.instr .nop).ip _ 0x0000#16 (h.onSregs .reset hregs))
  h.hardReset _ _ (h.onRun _ (h.instrIP _ _ (h.onRep _ (h.onSegOverride _ hflags))))

theorem onPrefixLoop {n : Nat} {s t : State} (he : prefixLoop n s = some (.next t)) (hs : P s) : P t := by
  induction n generalizing s with
  | zero => cases he
  | succ n ih =>
    unfold prefixLoop at he
    split at he
    · cases he
    · rename_i i u hf
      obtain ⟨hw, k, rfl⟩ := fetch_ok hf
      have hu := (h.instr i).onFetchBytes k hs
      split at he
      · split at he
        · exact ih he (exec_stable (h.instr i) hw ‹_› hu)
        · cases he
        · cases he
      · cases hx : exec i (fetchBytes k s) <;> rw [hx] at he <;> cases he
        exact exec_stable (h.instr i) hw hx hu

theorem onSingleStep {b : Bool} {s t : State} (he : singleStep b s = .next t) (hs : P s) : P t := by
  obtain rfl | rfl | he := singleStep_next he
  · exact hs
  · exact h.batch _ _ hs
  · exact h.onInterrupt he hs

theorem onBatchSlot {k : Nat} {s t : State} (he : batchSlot k s = .next t) (hs : P s) : P t := by
  obtain ⟨b, rfl⟩ | ⟨u, hu, he⟩ := batchSlot_next he
  · exact h.batch _ _ hs
  · exact h.onSingleStep he (h.onEndInstr (h.onPrefixLoop hu (h.onBeginInstr (h.batch _ _ hs))))

theorem onAfterHardReset {s : State} (hs : P s) : P (afterHardReset s) := by
  unfold afterHardReset
  split
  · exact h.onHardResetCpu hs
  · exact hs

theorem onBoundary {s t : State} (he : boundary s = .next t) (hs : P s) : P t := by
  have hs := h.onAfterHardReset hs
  rw [boundary_eq] at he
  obtain rfl | rfl | ⟨n, pic, he⟩ := boundaryPoll_next he
  · exact h.onRun _ hs
  · exact hs
  · exact h.onInterrupt he (h.pic _ _ hs)

theorem onAdvance {s t : State} (he : advance s = .next t) (hs : P s) : P t := by
  obtain ⟨k, he⟩ | ⟨-, he⟩ := advance_next he
  · exact h.onBatchSlot he hs
  · exact h.onBoundary he (h.batch _ _ hs)

theorem onEvent {e : HostEvent} {s t : State} (hu : setsUp e = false) (he : applyEvent e s = .next t) (hs : P s) :
    P t := by
  cases e with
  | step more => exact h.onBatchSlot he hs
  | pass =>
    change (if s.batch.isSome then advance s else .next s) = .next t at he
    split at he
    · exact h.onAdvance he hs
    · cases he; exact hs
  | raise irq => cases he; exact h.pic _ _ hs
  | addTicks k => cases he; exact h.pic _ _ hs
  | stop => cases he; exact h.hostRunning _ _ hs
  | hardReset => cases he; exact h.hardReset _ _ hs
  | _ => cases hu

/-- A step keeps `P`, if the events that set the machine up do. -/
theorem onStep {s t : State} (he : step s = .next t) (hs : P s)
    (hset : ∀ e rest, s.events = e :: rest → setsUp e = true →
      (isDue e s = true ∨ (∃ d, e = .eject d) ∨ e = .shutdown) → applyEvent e (s.setEvents rest) = .next t → P t) :
    P t := by
  obtain he | rfl | ⟨e, rest, hev, hdue, he⟩ := step_next he
  · exact h.onAdvance he hs
  · exact hs
  · cases hu : setsUp e
    · exact h.onEvent hu he (h.events _ _ hs)
    · exact hset e rest hev hu hdue he

end LoopStable
end Sys2Proof.Machine
end

section
/-! PROOFS. The invariant, the read-only bytes and the system state (spec/10_state.md R33 to R40, R54,
spec/20_memory.md R102, R113). -/

namespace Sys2Proof.Machine

variable {i : Instr} {s t : State}

/-! ## The prefix slots between steps -/

/-- Both prefix slots empty (R38) and IP0 forgotten (log 15). -/
structure SlotsEmpty (s : State) : Prop where
  segOverride : s.segOverride = none
  rep : s.rep = none
  instrIP : s.instrIP = 0x0000#16

namespace SlotsEmpty

theorem congr (h : SlotsEmpty s) (hs : t.segOverride = s.segOverride := by simp) (hr : t.rep = s.rep := by simp)
    (hi : t.instrIP = s.instrIP := by simp) : SlotsEmpty t :=
  ⟨hs.trans h.segOverride, hr.trans h.rep, hi.trans h.instrIP⟩

/-- No instruction but a prefix fills a slot. -/
theorem stable (hp : i.isPrefix = false) : Stable i SlotsEmpty where
  regs _ _ h := h.congr
  sreg _ _ _ _ h := h.congr
  ip _ _ h := h.congr
  flags _ _ _ _ _ h := h.congr
  run _ _ _ h := h.congr
  segOverride _ _ hi _ := absurd (hi.symm.trans hp) nofun
  rep _ _ hi _ := absurd (hi.symm.trans hp) nofun
  draws _ _ h := h.congr
  touch8 _ _ h := h.congr
  write8 _ _ _ h := h.congr
  portRead8 _ _ h := h.congr
  portWrite8 _ _ _ h := h.congr
  storeSector _ _ _ _ _ _ h := h.congr rfl rfl rfl
  status _ _ _ _ _ h := h.congr
  setMode s m noblank row _ _ h :=
    have hd := (blankedAtMost_setMode m noblank row s).devices
    h.congr hd.segOverride hd.rep hd.instrIP

theorem interrupt {n : Byte} {ret : Word} (he : interrupt n ret s = .next t) (h : SlotsEmpty s) : SlotsEmpty t :=
  (stable (i := .int n) rfl).onInterrupt rfl he h

theorem singleStep {b : Bool} (he : singleStep b s = .next t) (h : SlotsEmpty s) : SlotsEmpty t := by
  obtain rfl | rfl | he := singleStep_next he
  · exact h
  · exact h.congr
  · exact h.interrupt he

theorem batchSlot {k : Nat} (he : batchSlot k s = .next t) (h : SlotsEmpty s) : SlotsEmpty t := by
  obtain ⟨b, rfl⟩ | ⟨u, -, he⟩ := batchSlot_next he
  · exact h.congr
  · exact singleStep he ⟨rfl, rfl, rfl⟩

theorem boundary (he : boundary s = .next t) (h : SlotsEmpty s) : SlotsEmpty t := by
  have hr : SlotsEmpty (afterHardReset s) := by
    unfold afterHardReset
    split
    · exact ⟨rfl, rfl, rfl⟩
    · exact h
  rw [boundary_eq] at he
  obtain rfl | rfl | ⟨n, pic, he⟩ := boundaryPoll_next he
  · exact hr.congr
  · exact hr
  · exact hr.congr.interrupt he

theorem advance (he : advance s = .next t) (h : SlotsEmpty s) : SlotsEmpty t := by
  obtain ⟨k, he⟩ | ⟨-, he⟩ := advance_next he
  · exact h.batchSlot he
  · exact h.congr.boundary he

end SlotsEmpty

/-! ## Ejecting every drive -/

/-- A property that an eject keeps is kept by the shutdown. -/
theorem shutdown_keeps {P : State → Prop} (he : ∀ s d, P s → P (eject d s)) (hs : P s) : P (shutdown s) :=
  List.foldlRecOn (List.range 256) _ hs fun _ hu d _ => he _ (BitVec.ofNat 8 d) hu

theorem SlotsEmpty.event {e : HostEvent} (he : applyEvent e s = .next t) (h : SlotsEmpty s) : SlotsEmpty t := by
  cases e with
  | step more => exact h.batchSlot he
  | pass =>
    change (if s.batch.isSome then Machine.advance s else .next s) = .next t at he
    split at he
    · exact h.advance he
    · cases he; exact h
  | shutdown => exact Host.Outcome.next.inj he ▸ shutdown_keeps (fun _ _ h => h.congr rfl rfl rfl) h
  | _ => cases he; exact h.congr rfl rfl rfl

theorem SlotsEmpty.step (he : step s = .next t) (h : SlotsEmpty s) : SlotsEmpty t := by
  obtain he | rfl | ⟨e, rest, -, -, he⟩ := step_next he
  · exact h.advance he
  · exact h
  · exact h.congr.event he

/-! ## The tables -/

namespace State.DataInv

theorem loopStable : LoopStable State.DataInv where
  instr := stable
  instrIP _ _ h := h.congr rfl rfl rfl rfl rfl
  batch _ _ h := h.congr rfl rfl rfl rfl rfl
  events _ _ h := h.congr rfl rfl rfl rfl rfl
  pic _ _ h := h.congr rfl rfl rfl rfl rfl
  hostRunning _ _ h := h.congr rfl rfl rfl rfl rfl
  hardReset _ _ h := h.congr rfl rfl rfl rfl rfl

theorem loadRom (h : s.DataInv) (base : Linear) (bytes : List Byte) : (loadRom base bytes s).DataInv :=
  ⟨romCopy_wf h.ram bytes base, romProtect_wf h.readonly _ base, h.shadow, h.disk, h.video⟩

theorem setDrive (h : s.DataInv) (d : Byte) {v : Drive} (hv : v.wf = true) : (s.setDisk (s.disk.setAt d v)).DataInv :=
  ⟨h.ram, h.readonly, h.shadow, Disk.setAt_wf h.disk d hv, h.video⟩

theorem eject (h : s.DataInv) (d : Byte) : (eject d s).DataInv := h.setDrive d (Disk.at_wf h.disk d)

end State.DataInv

/-- A store's listed bytes are below its size (log 20). -/
theorem backingOf_wf (size : Nat) (contents : List (Nat × Byte)) : (backingOf size contents).wf 0#8 size = true :=
  Table.ofList_wf fun e he => by simpa using (List.mem_filter.1 he).2

theorem State.DataInv.setUp {e : HostEvent} (hu : setsUp e = true) (he : applyEvent e s = .next t) (h : s.DataInv) :
    t.DataInv := by
  cases e with
  | loadRom base bytes => cases he; exact h.loadRom base bytes
  | insertImage d size contents => cases he; exact h.setDrive d (backingOf_wf size contents)
  | insertRaw d size cyls sects heads contents => cases he; exact h.setDrive d (backingOf_wf size contents)
  | eject d => cases he; exact h.eject d
  | setBootDrive d => cases he; exact h.congr rfl rfl rfl rfl rfl
  | shutdown => exact Host.Outcome.next.inj he ▸ shutdown_keeps (fun _ d h => h.eject d) h
  | _ => cases hu

theorem State.DataInv.step (he : step s = .next t) (h : s.DataInv) : t.DataInv :=
  loopStable.onStep he h fun _ _ _ hu _ he => setUp hu he (h.congr rfl rfl rfl rfl rfl)

/-- Settles O11: the tables by what every update keeps, the slots by what ends each step. -/
theorem stepKeepsTheInvariant : Obligations.StepKeepsTheInvariant := by
  intro s t h he
  have hslots := SlotsEmpty.step he ⟨h.segOverride, h.rep, h.instrIP⟩
  exact ⟨h.data.step he, hslots.segOverride, hslots.rep, hslots.instrIP⟩

/-- Settles O10: the tables are empty, or list what is in their range. -/
theorem resetMeetsTheInvariant : Obligations.ResetMeetsTheInvariant where
  data := ⟨rfl, rfl, rfl, rfl, rfl⟩
  segOverride := rfl
  rep := rfl
  instrIP := rfl

/-! ## Read-only bytes -/

/-- Setting bits clears none. -/
theorem mem_romProtect {k n : Nat} (a : Linear) {l : List Nat} (h : k ∈ l) : k ∈ romProtect n a l := by
  induction n generalizing a l with
  | zero => exact h
  | succ n ih => exact ih (a + 1) (mem_sortedInsert.2 (.inr h))

theorem isReadonly_loadRom {a : Linear} (base : Linear) (bytes : List Byte) (h : isReadonly a s = true) :
    isReadonly a (loadRom base bytes s) = true :=
  List.contains_iff_mem.2 (mem_romProtect base (List.contains_iff_mem.1 h))

/-- The byte at `a` is read-only; where `fixed` holds it reads as `c`, if it is outside the aperture. -/
structure ReadsOnly (fixed : Prop) (a : Linear) (c : Byte) (s : State) : Prop where
  readonly : isReadonly a s = true
  value : fixed → inAperture a = false → peek8 a s = c

namespace ReadsOnly

variable {fixed : Prop} {a : Linear} {c : Byte}

/-- Outside the aperture a byte is RAM's. -/
theorem congr (h : ReadsOnly fixed a c s) (ho : t.readonly = s.readonly := by simp) (hr : t.ram = s.ram := by simp) :
    ReadsOnly fixed a c t where
  readonly := (isReadonly_congr a ho).trans h.readonly
  value hf ha := by rw [← h.value hf ha]; simp [peek8, ha, hr]

theorem write8 (h : ReadsOnly fixed a c s) (b : Linear) (v : Byte) : ReadsOnly fixed a c (write8 b v s) := by
  by_cases hb : a = b
  · subst hb
    rwa [write8_of_readonly s v h.readonly]
  · exact ⟨(isReadonly_congr a (by simp)).trans h.readonly, fun hf ha => (peek8_write8_other s v hb).trans (h.value hf ha)⟩

/-- Blanking leaves read-only bytes (R653). -/
theorem setMode (h : ReadsOnly fixed a c s) (m : BitVec 7) (noblank : Bool) (row : ModeRow) :
    ReadsOnly fixed a c (setMode m noblank row s) := by
  have hb := blankedAtMost_setMode m noblank row s
  have hro : isReadonly a (withMode m noblank row s) = true := h.readonly
  refine ⟨(isReadonly_congr a hb.devices.readonly).trans hro, fun hf ha => ?_⟩
  have hsame : peek8 a (Machine.setMode m noblank row s) = peek8 a (withMode m noblank row s) := by
    by_contra hne
    obtain ⟨-, -, -, hfree⟩ | ⟨-, hap⟩ := hb.bytes a hne
    · rw [hro] at hfree; cases hfree
    · rw [ha] at hap; cases hap
  rw [hsame]
  exact (congr h rfl rfl : ReadsOnly fixed a c (withMode m noblank row s)).value hf ha

theorem loopStable (fixed : Prop) (a : Linear) (c : Byte) : LoopStable (ReadsOnly fixed a c) where
  instr _ :=
    { regs := fun _ _ h => h.congr
      sreg := fun _ _ _ _ h => h.congr
      ip := fun _ _ h => h.congr
      flags := fun _ _ _ _ _ h => h.congr
      run := fun _ _ _ h => h.congr
      segOverride := fun _ _ _ h => h.congr
      rep := fun _ _ _ h => h.congr
      draws := fun _ _ h => h.congr
      touch8 := fun _ _ h => h.congr
      write8 := fun _ b v h => h.write8 b v
      portRead8 := fun _ _ h => h.congr
      portWrite8 := fun _ _ _ h => h.congr
      storeSector := fun _ _ _ _ _ _ h => h.congr rfl rfl
      status := fun _ _ _ _ _ h => h.congr
      setMode := fun _ m noblank row _ _ h => h.setMode m noblank row }
  instrIP _ _ h := h.congr
  batch _ _ h := h.congr
  events _ _ h := h.congr
  pic _ _ h := h.congr
  hostRunning _ _ h := h.congr
  hardReset _ _ h := h.congr

/-- An event that sets the machine up: only a ROM may change the byte. -/
theorem setUp {e : HostEvent} (hu : setsUp e = true) (hrom : ∀ base bytes, e = .loadRom base bytes → ¬ fixed)
    (he : applyEvent e s = .next t) (h : ReadsOnly fixed a c s) : ReadsOnly fixed a c t := by
  cases e with
  | loadRom base bytes =>
    cases he
    exact ⟨isReadonly_loadRom base bytes h.readonly, fun hf => absurd hf (hrom base bytes rfl)⟩
  | insertImage d size contents => cases he; exact h.congr rfl rfl
  | insertRaw d size cyls sects heads contents => cases he; exact h.congr rfl rfl
  | eject d => cases he; exact h.congr rfl rfl
  | setBootDrive d => cases he; exact h.congr
  | shutdown => exact Host.Outcome.next.inj he ▸ shutdown_keeps (fun _ _ h => h.congr rfl rfl) h
  | _ => cases hu

end ReadsOnly

/-- Settles O12: every update but a ROM's keeps the byte and its bit, and a ROM keeps the bit. -/
theorem readOnlyBytesNeverChange : Obligations.ReadOnlyBytesNeverChange := by
  intro s t a hro he
  let fixed : Prop := s.batch = none → ∀ base bytes, s.events.head? ≠ some (.loadRom base bytes)
  have hs : ReadsOnly fixed a (peek8 a s) s := ⟨hro, fun _ _ => rfl⟩
  have ht : ReadsOnly fixed a (peek8 a s) t :=
    (ReadsOnly.loopStable fixed a _).onStep he hs fun e rest hev hu hdue he => by
      refine hs.congr.setUp hu (fun base bytes hx hf => ?_) he
      subst hx
      obtain hd | ⟨d, hd⟩ | hd := hdue
      · exact hf (by simpa [isDue] using hd) base bytes (by rw [hev]; rfl)
      · cases hd
      · cases hd
  exact ⟨ht.readonly, fun ha hf => ht.value hf ha⟩

/-! ## Which instructions write system state -/

/-- The system state is that of s, but for what instruction `i` is named for (R33, R37, R40). -/
structure SystemKept (i : Instr) (s t : State) : Prop where
  tf : mayWriteTF i = false → flag .tf t = flag .tf s
  ifl : mayWriteIF i = false → flag .if t = flag .if s
  df : mayWriteDF i = false → flag .df t = flag .df s
  cs : mayWriteCS i = false → sreg .cs t = sreg .cs s
  run : mayWriteRun i = false → t.run = s.run

namespace SystemKept

variable {u : State}

theorem congr (h : SystemKept i s t) (hf : u.flags = t.flags := by simp) (hs : u.sregs = t.sregs := by simp)
    (hr : u.run = t.run := by simp) : SystemKept i s u :=
  ⟨fun hi => (flag_congr _ hf).trans (h.tf hi), fun hi => (flag_congr _ hf).trans (h.ifl hi),
    fun hi => (flag_congr _ hf).trans (h.df hi), fun hi => (sreg_congr _ hs).trans (h.cs hi),
    fun hi => hr.trans (h.run hi)⟩

theorem setMode_run (m : BitVec 7) (noblank : Bool) (row : ModeRow) (s : State) :
    (setMode m noblank row s).run = s.run := by
  obtain ⟨_, _, _, base⟩ := row
  cases noblank <;> cases base <;> rfl

/-- Of two ways a flag may change, that the instruction is not named for it leaves the one that keeps it. -/
theorem flag_kept {b c d : Bool} {may : Bool} (h : may = true ∨ c = b) (hk : may = false → b = d) (hm : may = false) :
    c = d := by
  obtain h | h := h
  · rw [hm] at h; cases h
  · exact h.trans (hk hm)

theorem stable (i : Instr) (s : State) : Stable i (SystemKept i s) where
  regs _ _ h := h.congr
  sreg u k v hk h := { h with
    cs := fun hi => by
      have hne : Sreg.cs ≠ k := by
        rintro rfl
        rw [hk rfl] at hi
        cases hi
      rw [sreg_setSreg, if_neg hne]
      exact h.cs hi }
  ip _ _ h := h.congr
  flags u f ht hi hd h :=
    { tf := flag_kept ht h.tf
      ifl := flag_kept hi h.ifl
      df := flag_kept hd h.df
      cs := h.cs
      run := h.run }
  run u r hr h := { h with run := fun hi => by rw [hr] at hi; cases hi }
  segOverride _ _ _ h := h.congr
  rep _ _ _ h := h.congr
  draws _ _ h := h.congr
  touch8 _ _ h := h.congr
  write8 _ _ _ h := h.congr
  portRead8 _ _ h := h.congr
  portWrite8 _ _ _ h := h.congr
  storeSector _ _ _ _ _ _ h := h.congr rfl rfl rfl
  status _ _ _ _ _ h := h.congr
  setMode u m noblank row _ _ h :=
    have hb := blankedAtMost_setMode m noblank row u
    h.congr hb.flags hb.sregs (setMode_run m noblank row u)

end SystemKept

/-- Settles O13: each update an instruction may use keeps what the instruction is not named for. -/
theorem onlyNamedInstructionsWriteSystemState : Obligations.OnlyNamedInstructionsWriteSystemState := by
  intro i s t hw he
  obtain ⟨htf, hif, hdf, hcs, hrun⟩ :=
    exec_stable (SystemKept.stable i s) hw he ⟨fun _ => rfl, fun _ => rfl, fun _ => rfl, fun _ => rfl, fun _ => rfl⟩
  exact ⟨htf, hif, hdf, hcs, hrun⟩

end Sys2Proof.Machine
end

section
/-! PROOFS. The PIC's ports and the batch boundary (spec/60_exceptions.md R790, R801 to R807). -/

namespace Sys2Proof.Machine

/-! ## The PIC -/

/-- The lowest set bit, by what it is. -/
theorem lowestBit_eq {x : Byte} {b : Nat} (hb : b < 8) (hx : x.getLsbD b = true) (hlow : ∀ j, j < b → x.getLsbD j = false) :
    lowestBit x = b := by
  have h : (List.range 8).find? (fun i => x.getLsbD i) = some b :=
    List.find?_range_eq_some.2 ⟨hx, List.mem_range.2 hb, fun j hj => by rw [hlow j hj]; rfl⟩
  rw [lowestBit, h]
  rfl

theorem ne_zero_of_getLsbD {w : Nat} {x : BitVec w} {b : Nat} (hx : x.getLsbD b = true) : x ≠ 0 := by
  rintro rfl
  simp at hx

theorem portWrite8_picCommand (v : Byte) (s : State) :
    portWrite8 0x20#16 v s = s.setPic (s.pic.commandWrite s.params v) := rfl

theorem portWrite8_picData (v : Byte) (s : State) : portWrite8 0x21#16 v s = s.setPic (s.pic.dataWrite v) := rfl

/-- The command 0x20 is the EOI (R801). -/
theorem Pic.commandWrite_eoi (params : Params) (p : Pic) : p.commandWrite params 0x20#8 = p.eoi := rfl

/-- R803: an EOI without an interrupt in service. -/
theorem Pic.eoi_of_isr_eq_zero {p : Pic} (h : p.isr = 0) : p.eoi = { p with kbdAck := false } := if_pos h

/-- R803, R811: an EOI of interrupt b; that of IRQ 0 takes a makeup tick. -/
theorem Pic.eoi_of_lowestBit {p : Pic} {b : Nat} (hb : lowestBit p.isr = b) (hne : p.isr ≠ 0) : p.eoi =
    { p with
      isr := p.isr &&& ~~~(1#8 <<< b), kbdAck := false
      irr := if b = 0 ∧ 0 < p.makeupTicks then p.irr ||| 1#8 else p.irr
      makeupTicks := if b = 0 ∧ 0 < p.makeupTicks then p.makeupTicks - 1 else p.makeupTicks } := by
  unfold Pic.eoi
  rw [if_neg (show ¬ p.isr = 0#8 from hne), hb]
  by_cases h : b = 0 ∧ 0 < p.makeupTicks <;> simp [h, bit8]

/-- R804. -/
theorem Pic.ocw3_eq (mode : Ocw3Read) (v : Byte) (p : Pic) : p.ocw3 mode v =
    { p with readIsr := if v.getLsbD 1 then (match mode with | .byRisBit => v.getLsbD 0 | .toggle => !p.readIsr)
        else p.readIsr } := by
  unfold Pic.ocw3
  split
  · cases mode <;> rfl
  · rfl

/-- R801: OCW3, and the EOI that may follow it. -/
theorem Pic.commandWrite_ocw3 {params : Params} {v : Byte} {p : Pic} (h4 : v.getLsbD 4 = false)
    (h : v &&& 0x98#8 = 0x08#8) : p.commandWrite params v =
      if params.picOcw3FallThrough = true ∧ v.getLsbD 5 = true then (p.ocw3 params.picOcw3Read v).eoi
      else p.ocw3 params.picOcw3Read v := by
  simp only [Pic.commandWrite, h4, h, Bool.and_eq_true]
  rfl

/-- R801: neither ICW1 nor OCW3. -/
theorem Pic.commandWrite_ocw2 {params : Params} {v : Byte} {p : Pic} (h4 : v.getLsbD 4 = false)
    (h : v &&& 0x98#8 ≠ 0x08#8) : p.commandWrite params v = if v.getLsbD 5 then p.eoi else p := by
  simp only [Pic.commandWrite, h4, h]
  rfl

/-- Settles O57: the command by its tests in their order, the data byte by the sequence's step. -/
theorem picPortsProgramThePic : Obligations.PicPortsProgramThePic := by
  intro s v
  dsimp only
  rw [portWrite8_picCommand, portWrite8_picData]
  refine ⟨⟨rfl, rfl⟩, fun h4 => ?_, fun h4 ho => ?_, fun h4 ho h5 => ⟨fun hisr => ?_, fun b hb hbit hlow => ?_⟩,
    fun h4 ho h5 => ?_, fun hs => ?_, fun hs => ?_, fun hs h1 => ?_, fun hs h1 => ?_, fun hs => ?_⟩
  · exact congrArg s.setPic (if_pos h4 : s.pic.commandWrite s.params v = s.pic.icw1Write v)
  · rw [Pic.commandWrite_ocw3 h4 ho, Pic.ocw3_eq]
    by_cases hf : s.params.picOcw3FallThrough = true ∧ v.getLsbD 5 = true
    · rw [if_pos hf, if_pos hf] <;> rfl
    · rw [if_neg hf, if_neg hf] <;> rfl
  · rw [Pic.commandWrite_ocw2 h4 ho, if_pos h5, Pic.eoi_of_isr_eq_zero hisr]
  · rw [Pic.commandWrite_ocw2 h4 ho, if_pos h5, Pic.eoi_of_lowestBit (lowestBit_eq hb hbit hlow) (ne_zero_of_getLsbD hbit)]
  · rw [Pic.commandWrite_ocw2 h4 ho, h5]; rfl
  all_goals simp only [Pic.dataWrite, *]
  · rfl
  · rfl

/-! ## The boundary -/

theorem canTrap_of_live {s : State} (h : s.run = .running ∨ s.run = .halted) : canTrap s = true := by
  rcases h with h | h <;> simp [canTrap, h]

/-- The step at a boundary with no event listed. -/
theorem step_boundary {s : State} (hr : s.run = .running ∨ s.run = .halted) (he : s.events = []) (hb : s.batch = some 0) :
    step s = boundary (s.setBatch none) := by rw [step_live hr, hostStep_nil he, advance_boundary hb]

theorem boundaryPoll_stopped {s : State} (h : s.hostRunning = false) : boundaryPoll s = .next (s.setRun .stopped) := by
  simp [boundaryPoll, h]

theorem boundaryPoll_quiet {s : State} (h : s.hostRunning = true) (hi : takesIrq s = false) : boundaryPoll s = .next s := by
  simp [boundaryPoll, h, hi]

/-- R790, R807: the lowest pending request is entered as INT would enter its vector. -/
theorem boundaryPoll_irq {s : State} {b : Nat} (h : s.hostRunning = true) (hi : takesIrq s = true)
    (hb : lowestBit s.pic.pending = b) : boundaryPoll s = exec (.int (s.pic.icw2 + BitVec.ofNat 8 b))
      (s.setPic { s.pic with irr := s.pic.irr &&& ~~~(1#8 <<< b), isr := s.pic.isr ||| (1#8 <<< b) }) := by
  simp only [boundaryPoll, h, hi, injectIrq, Pic.nextInterrupt, hb]
  rfl

theorem boundary_of_not_hardReset {s : State} (h : s.hardReset = false) : boundary s = boundaryPoll s := by
  simp [boundary, h]

/-- R790: after the hard reset IF is clear, so that no request is taken. -/
theorem boundary_of_hardReset {s : State} (h : s.hardReset = true) :
    boundary s = .next ((hardResetCpu s).setRun (if s.hostRunning then .running else .stopped)) := by
  rw [boundary, if_pos h]
  cases hr : s.hostRunning
  · exact boundaryPoll_stopped hr
  · exact boundaryPoll_quiet hr rfl

/-- Settles O55: the boundary's three questions in their order. -/
theorem batchBoundaries : Obligations.BatchBoundaries := by
  intro s hr he hb
  dsimp only
  rw [step_boundary hr he hb]
  have hlive : canTrap (s.setBatch none) = true := canTrap_of_live hr
  have hpoll (h : s.hardReset = false) : boundary (s.setBatch none) = boundaryPoll (s.setBatch none) :=
    boundary_of_not_hardReset h
  refine ⟨fun h hh => ?_, fun h hh hq => ?_, fun h hh hi b hb8 hbit hlow => ?_, fun h => ?_⟩
  · rw [hpoll h, boundaryPoll_stopped (s := s.setBatch none) hh]
  · rw [hpoll h, boundaryPoll_quiet (s := s.setBatch none) hh]
    have hp : s.pic.pending = s.pic.irr &&& ~~~s.pic.imr := rfl
    rcases hq with hq | hq <;> simp [takesIrq, hq, hp]
  · have hp : (s.pic.pending != 0#8) = true := bne_iff_ne.2 (ne_zero_of_getLsbD hbit)
    rw [hpoll h, boundaryPoll_irq (s := s.setBatch none) hh _ (lowestBit_eq hb8 hbit hlow)]
    · rfl
    · simp [takesIrq, hlive, hi, hp]
  · refine ⟨_, boundary_of_hardReset h, ?_⟩
    have hflags : ∀ k, flag k (hardResetCpu (s.setBatch none)) = false := fun k => by cases k <;> rfl
    exact ⟨rfl, rfl, rfl, rfl, rfl, hflags, rfl, rfl, rfl, rfl, rfl, rfl, rfl, rfl, rfl, rfl, rfl, rfl, rfl, he, rfl⟩

end Sys2Proof.Machine
end

section
/-! PROOFS. Fetching, the prefix loop and the end of an instruction (spec/30_encoding.md R170 to R173,
spec/60_exceptions.md R770, R776, R871). -/

namespace Sys2Proof.Machine

/-! ## Fetching -/

/-- One `Fetch8()` (R170). -/
def fetchOne (s : State) : State := (touch8 (fetchAddr s 0) s).setIp ((touch8 (fetchAddr s 0) s).ip + 1)

theorem fetchBytes_eq_iterate (n : Nat) (s : State) : fetchBytes n s = fetchOne^[n] s := by
  induction n generalizing s with
  | zero => rfl
  | succ n ih => exact ih (fetchOne s)

theorem fetchBytes_succ (n : Nat) (s : State) : fetchBytes (n + 1) s = fetchOne (fetchBytes n s) := by
  simp only [fetchBytes_eq_iterate, Function.iterate_succ_apply']

/-- The addresses of n bytes from CS:IP on. -/
def fetchAddrs (n : Nat) (s : State) : List Linear :=
  (List.range n).map fun k => lin (sreg .cs s) (s.ip + BitVec.ofNat 16 k)

/-- R170: n fetched bytes move IP by n, IP wrapping. -/
theorem fetchBytes_ip (n : Nat) (s : State) : (fetchBytes n s).ip = s.ip + BitVec.ofNat 16 n := by
  induction n with
  | zero => exact (BitVec.add_zero _).symm
  | succ n ih =>
    have hn : BitVec.ofNat 16 (n + 1) = BitVec.ofNat 16 n + 1 := BitVec.ofNat_add n 1
    rw [fetchBytes_succ, hn, ← add_assoc, ← ih]
    simp [fetchOne]

/-- R110, R170: a fetch moves IP, and loads the latch at most. -/
theorem frame_fetchBytes {m n : Nat} (hn : n ≤ m) (s : State) :
    Frame { ip := true, reads := fetchAddrs m s } s (fetchBytes n s) := by
  induction n with
  | zero => exact .refl _ s
  | succ n ih =>
    have h := ih (by omega)
    have haddr : fetchAddr (fetchBytes n s) 0 = lin (sreg .cs s) (s.ip + BitVec.ofNat 16 n) := by
      rw [fetchAddr, h.sregs .cs List.not_mem_nil, fetchBytes_ip]
      simp
    rw [fetchBytes_succ]
    refine (h.touch8 ?_).setIp rfl _
    rw [haddr]
    exact List.mem_map.2 ⟨n, List.mem_range.2 hn, rfl⟩

/-- Settles O7. -/
theorem fetchAdvancesIP : Obligations.FetchAdvancesIP := fun s n =>
  ⟨rfl, fetchBytes_ip n s, frame_fetchBytes (Nat.le_refl n) s⟩

theorem fetch_of_decode {s : State} {i : Instr} {rest : List Byte}
    (h : decode s.params.ext186 (codeBytes s) = .ok (i, rest)) : fetch s = .ok (i, fetchBytes (6 - rest.length) s) := by
  rw [fetch, h]
  rfl

/-! ## A slot that runs an instruction -/

/-- A step of a running machine with no event listed is a slot (R871). -/
theorem step_slot {s : State} {k : Nat} (hr : s.run = .running) (he : s.events = [])
    (hb : s.batch = some (k + 1) ∨ s.batch = none ∧ k = s.params.moreSlots) : step s = batchSlot k s := by
  rw [step_live (.inl hr), hostStep_nil he, advance_slot hb]

/-- Settles O6: the loop ends at its first byte. -/
theorem stepRunsDecodedInstruction : Obligations.StepRunsDecodedInstruction := by
  intro s i rest k hr he hb hd hp
  rw [step_slot hr he hb]
  have hfetch := fetch_of_decode (s := beginInstr (s.setBatch (some k))) (by rwa [codeBytes_beginInstr])
  exact batchSlot_running hr (prefixLoop_instr maxPrefixes hfetch hp)

/-! ## Prefixes -/

/-- A prefix is one byte (R173). -/
theorem encode_length_of_isPrefix {i : Instr} (h : i.isPrefix = true) : (encode i).length = 1 := by
  unfold Instr.isPrefix at h
  split at h
  case h_8 => cases h
  all_goals rfl

/-- A prefix sets slots and nothing else (R173). -/
theorem exec_of_isPrefix {i : Instr} (h : i.isPrefix = true) (s : State) :
    ∃ o r, exec i s = .next ((s.setSegOverride o).setRep r) := by
  unfold Instr.isPrefix at h
  split at h
  case h_1 => exact ⟨some .es, s.rep, rfl⟩
  case h_2 => exact ⟨some .cs, s.rep, rfl⟩
  case h_3 => exact ⟨some .ss, s.rep, rfl⟩
  case h_4 => exact ⟨some .ds, s.rep, rfl⟩
  case h_5 => exact ⟨s.segOverride, s.rep, rfl⟩
  case h_6 | h_7 => exact ⟨s.segOverride, _, rfl⟩
  case h_8 => cases h

/-- The prefix loop at a prefix goes on with the byte after it. -/
theorem prefixLoop_of_prefix {s : State} {i : Instr} {rest : List Byte}
    (hd : decode s.params.ext186 (codeBytes s) = .ok (i, rest)) (hp : i.isPrefix = true) :
    ∃ o r, exec i (fetchBytes 1 s) = .next (((fetchBytes 1 s).setSegOverride o).setRep r) ∧
      ∀ n, prefixLoop (n + 1) s = prefixLoop n (((fetchBytes 1 s).setSegOverride o).setRep r) := by
  have hlen := congrArg List.length (encodeAfterDecodeIsIdentity _ _ _ _ hd).2
  rw [List.length_append, encode_length_of_isPrefix hp] at hlen
  have hsix : (codeBytes s).length = 6 := rfl
  have hone : 6 - rest.length = 1 := by omega
  have hfetch := fetch_of_decode hd
  rw [hone] at hfetch
  obtain ⟨o, r, he⟩ := exec_of_isPrefix hp (fetchBytes 1 s)
  exact ⟨o, r, he, fun n => prefixLoop_prefix n hfetch hp he⟩

/-- A byte of the seven prefix rows decodes to a prefix, whatever follows. -/
theorem decode_prefixByte (ext : Bool) {b : Byte} (rest : List Byte)
    (hb : b ∈ [0x26#8, 0x2E#8, 0x36#8, 0x3E#8, 0xF0#8, 0xF2#8, 0xF3#8]) :
    ∃ i, decode ext (b :: rest) = .ok (i, rest) ∧ i.isPrefix = true := by
  simp only [List.mem_cons, List.not_mem_nil, or_false] at hb
  obtain rfl | rfl | rfl | rfl | rfl | rfl | rfl := hb
  · exact ⟨.prefixES, rfl, rfl⟩
  · exact ⟨.prefixCS, rfl, rfl⟩
  · exact ⟨.prefixSS, rfl, rfl⟩
  · exact ⟨.prefixDS, rfl, rfl⟩
  · exact ⟨.lock, rfl, rfl⟩
  · exact ⟨.repne, rfl, rfl⟩
  · exact ⟨.rep, rfl, rfl⟩

/-- A code segment of prefixes alone. -/
def OnlyPrefixes (s : State) : Prop :=
  ∀ off : Word, peek8 (lin (sreg .cs s) off) s ∈ [0x26#8, 0x2E#8, 0x36#8, 0x3E#8, 0xF0#8, 0xF2#8, 0xF3#8]

/-- R173: such a segment is fetched forever. -/
theorem prefixLoop_of_onlyPrefixes (n : Nat) {s : State} (h : OnlyPrefixes s) : prefixLoop n s = none := by
  induction n generalizing s with
  | zero => rfl
  | succ n ih =>
    obtain ⟨i, hd, hp⟩ := decode_prefixByte s.params.ext186 ((List.range' 1 5).map fun k => peek8 (fetchAddr s k) s) (h (s.ip + 0))
    obtain ⟨o, r, -, hnext⟩ := prefixLoop_of_prefix hd hp
    rw [hnext]
    have hf := frame_fetchBytes (Nat.le_refl 1) s
    refine ih fun off => ?_
    have hcs : sreg .cs (fetchBytes 1 s) = sreg .cs s := hf.sregs .cs List.not_mem_nil
    have hbyte := hf.memory.bytes (lin (sreg .cs s) off) List.not_mem_nil
    simpa [hcs, hbyte] using h off

/-- Settles O8. -/
theorem prefixesSetTheirSlots : Obligations.PrefixesSetTheirSlots := by
  refine ⟨fun s => ⟨rfl, rfl, rfl, rfl, rfl, rfl, rfl⟩, fun n s i rest hd hp => ?loop, fun s k a hr he hb hl => ?slot,
    fun s k hr he hb hall => ?hang⟩
  case loop =>
    obtain ⟨o, r, he, hnext⟩ := prefixLoop_of_prefix hd hp
    exact ⟨_, he, hnext n⟩
  case slot =>
    rw [step_slot hr he hb]
    exact batchSlot_running hr hl
  case hang =>
    rw [step_slot hr he hb]
    have hall' : OnlyPrefixes (beginInstr (s.setBatch (some k))) := fun off => by simpa [beginInstr] using hall off
    exact batchSlot_hangs hr (prefixLoop_of_onlyPrefixes _ hall')

/-! ## The end of an instruction -/

theorem canTrap_of_fatal {s : State} {r : FatalReason} (h : s.run = .fatal r) : canTrap s = false := by
  simp [canTrap, h]

/-- Settles O54. -/
theorem singleStepTrapFollowsTheInstruction : Obligations.SingleStepTrapFollowsTheInstruction := by
  intro u t
  have hfinish : finishInstr t (.next u) = singleStep t (endInstr u) := rfl
  dsimp only
  rw [hfinish]
  refine ⟨fun ht hr => ?trap, fun ht hr => ?noTrap, fun ⟨r, hr⟩ => ?fatal⟩
  case trap =>
    have hc : canTrap (endInstr u) = true := canTrap_of_live hr
    refine ⟨vectored 1 u.ip (endInstr u), ?_, vectored_of_reads (.refl _ _) _ _ _⟩
    rw [singleStep, if_pos hc, if_pos ht]
    exact interrupt_of_not_shortCircuited rfl _
  case noTrap =>
    have hc : canTrap (endInstr u) = true := canTrap_of_live hr
    rw [singleStep, if_pos hc, if_neg (ne_true_of_eq_false ht)]
    rfl
  case fatal =>
    have hc : canTrap (endInstr u) = false := canTrap_of_fatal hr
    rw [singleStep, if_neg (ne_true_of_eq_false hc)]
    rfl

/-! ## The end of the run -/

/-- R531, R532: a Fatal encoding. -/
theorem exec_of_isFatal {i : Instr} (h : isFatal i = true) (s : State) :
    exec i s = .next (s.setRun (.fatal .unmappedOpcode)) := by
  unfold isFatal at h
  split at h
  case h_11 => cases h
  all_goals rfl

/-- Whatever serves a vector, the machine runs after it (R760). -/
theorem interrupt_run {n : Byte} {ret : Word} {s t : State} (h : interrupt n ret s = .next t) : t.run = .running := by
  unfold interrupt at h
  split at h
  · split at h
    · cases h; rfl
    · cases h
  · split at h
    · cases h; rfl
    · cases h; rfl

theorem divideError_run {s t : State} (h : divideError s = .next t) : t.run = .running := by
  unfold divideError at h
  split at h
  · rename_i u hu
    cases h
    rw [undefine_run, interrupt_run hu]
  · cases h
  · cases h

@[simp] theorem afterRead8_run (rm : RM8) (s : State) : (afterRead8 rm s).run = s.run := by cases rm <;> simp [afterRead8]
@[simp] theorem afterRead16_run (rm : RM16) (s : State) : (afterRead16 rm s).run = s.run := by
  cases rm <;> simp [afterRead16]

theorem run_of_div {e : EOp} {s t : State} (h : exec (.div e) s = .next t) : t.run = .running ∨ t.run = s.run := by
  change execDiv e s = .next t at h
  cases e with
  | b rm =>
    simp only [execDiv, readRM8_eq] at h
    split at h
    · exact .inl (divideError_run h)
    · cases h; exact .inr (by simp)
  | w rm =>
    simp only [execDiv, readRM16_eq] at h
    split at h
    · exact .inl (divideError_run h)
    · cases h; exact .inr (by simp)

theorem run_of_idiv {e : EOp} {s t : State} (h : exec (.idiv e) s = .next t) : t.run = .running ∨ t.run = s.run := by
  change execIdiv e s = .next t at h
  cases e with
  | b rm =>
    simp only [execIdiv, readRM8_eq] at h
    split at h
    · exact .inl (divideError_run h)
    · cases h; exact .inr (by simp)
  | w rm =>
    simp only [execIdiv, readRM16_eq] at h
    split at h
    · exact .inl (divideError_run h)
    · cases h; exact .inr (by simp)

theorem run_of_aam {b : Byte} {s t : State} (h : exec (.aam b) s = .next t) : t.run = .running ∨ t.run = s.run := by
  by_cases hb : b = 0
  · subst hb; exact .inl (divideError_run h)
  · rw [exec_aam hb] at h
    cases h
    exact .inr (by simp)

/-- An instruction that may run the interrupt sequence runs on after it. -/
theorem run_of_mayInterrupt {i : Instr} {s t : State} (hi : mayInterrupt i = true) (hf : isFatal i = false)
    (h : exec i s = .next t) : t.run = .running ∨ t.run = s.run := by
  unfold mayInterrupt at hi
  split at hi
  case h_1 n => exact .inl (interrupt_run h)
  case h_2 => exact .inl (interrupt_run (n := 3) (ret := s.ip) (s := s) h)
  case h_3 =>
    rw [exec_into] at h
    split at h
    · exact .inl (interrupt_run h)
    · cases h; exact .inr rfl
  case h_4 e => exact run_of_div h
  case h_5 e => exact run_of_idiv h
  case h_6 b => exact run_of_aam h
  case h_7 g rm =>
    cases rm with
    | reg r => cases hf
    | mem m =>
      rw [exec_bound_mem] at h
      split at h
      · exact .inl (interrupt_run h)
      · cases h; exact .inr (by simp)
  case h_8 => cases hi

/-- No other instruction makes the run fatal. -/
theorem run_of_not_isFatal {i : Instr} {s t : State} {r : FatalReason} (hw : i.wf s.params.ext186 = true)
    (hf : isFatal i = false) (he : exec i s = .next t) (ht : t.run = .fatal r) : s.run = .fatal r := by
  obtain ⟨-, -, -, -, hrun⟩ := onlyNamedInstructionsWriteSystemState i s t hw he
  cases hm : mayWriteRun i
  · exact (hrun hm).symm.trans ht
  · rw [mayWriteRun, hf, Bool.or_false, Bool.or_eq_true, beq_iff_eq] at hm
    obtain rfl | hi := hm
    · cases he; cases ht
    · obtain hr | hr := run_of_mayInterrupt hi hf he
      · rw [hr] at ht; cases ht
      · exact hr.symm.trans ht

theorem step_of_fatal {s : State} {r : FatalReason} (h : s.run = .fatal r) : step s = afterRun s (.fault (.fatalStop r)) := by
  simp [step, h]

theorem step_of_stopped {s : State} (h : s.run = .stopped) : step s = afterRun s (.next s) := by simp [step, h]

/-- After the end of the run nothing is due but ejects. -/
theorem afterRun_of_no_eject {s : State} (he : ∀ d rest, s.events ≠ .eject d :: rest)
    (hs : ∀ rest, s.events ≠ .shutdown :: rest) (a : Answer) : afterRun s a = a := by
  unfold afterRun
  split
  · exact absurd ‹_› (he _ _)
  · exact absurd ‹_› (hs _)
  · rfl

theorem afterRun_eject {s : State} {d : Byte} {rest : List HostEvent} (h : s.events = .eject d :: rest) (a : Answer) :
    afterRun s a = .next (eject d (s.setEvents rest)) := by simp [afterRun, h]

theorem afterRun_shutdown {s : State} {rest : List HostEvent} (h : s.events = .shutdown :: rest) (a : Answer) :
    afterRun s a = .next (shutdown (s.setEvents rest)) := by simp only [afterRun, h]

theorem step_ended {s : State} (h : (∃ r, s.run = .fatal r) ∨ s.run = .stopped) : ∃ a, step s = afterRun s a := by
  obtain ⟨r, h⟩ | h := h
  · exact ⟨_, step_of_fatal h⟩
  · exact ⟨_, step_of_stopped h⟩

/-! ## Shutdown (R873) -/

/-- Ejecting the first n drives. -/
def ejectBelow (n : Nat) (s : State) : State := (List.range n).foldl (fun s d => eject (BitVec.ofNat 8 d) s) s

theorem ejectBelow_succ (n : Nat) (s : State) : ejectBelow (n + 1) s = eject (BitVec.ofNat 8 n) (ejectBelow n s) := by
  simp [ejectBelow, List.range_succ]

theorem ejectBelow_at (s : State) (d : Byte) (n : Nat) : (ejectBelow n s).disk.at d =
    if d.toNat < n then { s.disk.at d with inserted := false } else s.disk.at d := by
  induction n with
  | zero => rfl
  | succ n ih =>
    rw [ejectBelow_succ, eject_at]
    by_cases hd : d = BitVec.ofNat 8 n
    · have hle : d.toNat < n + 1 := by
        rw [hd, BitVec.toNat_ofNat]
        exact Nat.lt_succ_of_le (Nat.mod_le _ _)
      rw [if_pos hd, if_pos hle, ← hd, ih]
      split <;> rfl
    · have hne : d.toNat ≠ n := by
        rintro rfl
        exact hd (by simp)
      rw [if_neg hd, ih]
      congr 1
      simp only [eq_iff_iff]
      omega

theorem ejectBelow_other (s : State) (n : Nat) : (ejectBelow n s).disk.lastAh = s.disk.lastAh ∧
    (ejectBelow n s).disk.lastCf = s.disk.lastCf ∧ (ejectBelow n s).setDisk s.disk = s := by
  induction n with
  | zero => exact ⟨rfl, rfl, rfl⟩
  | succ n ih =>
    rw [ejectBelow_succ]
    exact ih

/-- Settles O53. -/
theorem fatalEncodingsStopTheRun : Obligations.FatalEncodingsStopTheRun := by
  refine ⟨fun i s h => exec_of_isFatal h s, fun i s t r hw hf he ht => run_of_not_isFatal hw hf he ht,
    fun s he hs => ⟨fun r hr => ?fault, fun hr => ?stays⟩, fun s rest hended => ⟨fun d he => ?eject, fun he => ?shutdown⟩,
    fun s k hr he hb => ?halted⟩
  case fault => rw [step_of_fatal hr, afterRun_of_no_eject he hs]
  case stays => rw [step_of_stopped hr, afterRun_of_no_eject he hs]
  case eject =>
    obtain ⟨a, ha⟩ := step_ended hended
    rw [ha, afterRun_eject he]
  case shutdown =>
    obtain ⟨a, ha⟩ := step_ended hended
    obtain ⟨hah, hcf, hrest⟩ := ejectBelow_other (s.setEvents rest) 256
    refine ⟨_, ha.trans (afterRun_shutdown he a), fun d => ?_, hah, hcf, hrest⟩
    exact (ejectBelow_at _ d 256).trans (if_pos d.isLt)
  case halted => rw [step_live (.inr hr), hostStep_nil he, advance_slot hb, batchSlot_halted k hr]

end Sys2Proof.Machine
end

section
/-! PROOFS. The host's operations (spec/70_reset_and_hazards.md R851, R853, R870, R871; spec/20_memory.md R113;
spec/47_bios_disk_int13.md R601 to R604). -/

namespace Sys2Proof.Machine

/-! ## Tables from lists -/

section
variable {α : Type} [DecidableEq α]

/-- A table from a list reads as the last entry of a key. -/
theorem Table.get_ofList (d : α) (l : List (Nat × α)) (k : Nat) : (Table.ofList d l).get d k = Table.get d l.reverse k := by
  induction l using List.reverseRecOn with
  | nil => rfl
  | append_singleton l e ih =>
    have hset : Table.ofList d (l ++ [e]) = (Table.ofList d l).set d e.1 e.2 := by simp [Table.ofList]
    rw [hset, Table.get_set, ih, List.reverse_append, List.reverse_singleton, List.singleton_append, Table.get_cons]
    exact if_congr eq_comm rfl rfl

omit [DecidableEq α] in
theorem Table.get_filter_lt (d : α) (size : Nat) (t : Table α) (k : Nat) :
    Table.get d (t.filter fun e => e.1 < size) k = if k < size then Table.get d t k else d := by
  induction t with
  | nil => simp
  | cons e t ih =>
    rw [List.filter_cons]
    split
    · rename_i he
      rw [Table.get_cons, Table.get_cons, ih]
      have he : e.1 < size := of_decide_eq_true he
      by_cases hk : e.1 = k
      · subst hk; simp [he]
      · simp [hk]
    · rename_i he
      have he : ¬ e.1 < size := fun h => he (decide_eq_true h)
      rw [ih, Table.get_cons]
      by_cases hk : k < size
      · rw [if_pos hk, if_pos hk, if_neg (by omega)]
      · rw [if_neg hk, if_neg hk]

end

/-- A backing store reads as the last byte listed for an offset, within its size (log 20). -/
theorem get_backingOf (size : Nat) (contents : List (Nat × Byte)) (n : Nat) :
    (backingOf size contents).get 0#8 n = if n < size then Table.get 0#8 contents.reverse n else 0 := by
  rw [backingOf, Table.get_ofList, ← List.filter_reverse, Table.get_filter_lt]
  rfl

/-! ## Drives -/

theorem Disk.at_setAt (k : Disk) (d n : Byte) (v : Drive) : (k.setAt d v).at n = if n = d then v else k.at n := by
  simp [Disk.at, Disk.setAt, Table.get_set, BitVec.toNat_inj]

theorem Disk.at_setAt_same (k : Disk) (d : Byte) (v : Drive) : (k.setAt d v).at d = v := by simp [Disk.at_setAt]

theorem Disk.at_setAt_other (k : Disk) {d n : Byte} (v : Drive) (h : n ≠ d) : (k.setAt d v).at n = k.at n := by
  simp [Disk.at_setAt, h]

/-- R602, R603, R601: the geometry of an image. -/
theorem imageGeometry_eq (d : Byte) (size : Nat) : imageGeometry d size =
    if 0x80 ≤ d.toNat then (size / (63 * 16 * 512), 63, 16)
    else if size = 163840 then (40, 8, 1) else if size = 368640 then (40, 9, 2)
    else if size = 737280 then (80, 9, 2) else if size = 1228800 then (80, 15, 2) else (80, 18, 2) := rfl

/-! ## Loading a ROM (R113) -/

/-- An address at offset k from base is at k - 1 from the next one. -/
theorem sub_succ_toNat {a base : Linear} (h : 0 < (a - base).toNat) : (a - (base + 1)).toNat = (a - base).toNat - 1 := by
  rw [← sub_sub]
  generalize a - base = x at h ⊢
  bv_omega

/-- Past the last byte of an image no byte wraps onto base. -/
theorem sub_succ_toNat_of_eq {a base : Linear} (h : (a - base).toNat = 0) : (a - (base + 1)).toNat = 2 ^ 20 - 1 := by
  rw [← sub_sub]
  generalize a - base = x at h ⊢
  bv_omega

theorem eq_of_sub_toNat_eq_zero {a base : Linear} (h : (a - base).toNat = 0) : a = base := by
  bv_omega

theorem ramGet_romCopy (bytes : List Byte) (base a : Linear) (m : Memory) (hn : bytes.length ≤ 2 ^ 20) :
    ramGet (romCopy bytes base m) a =
      if (a - base).toNat < bytes.length then bytes.getD (a - base).toNat 0 else ramGet m a := by
  induction bytes generalizing base m with
  | nil => rfl
  | cons b bytes ih =>
    rw [List.length_cons] at hn
    rw [romCopy, ih _ _ (by omega)]
    by_cases h : (a - base).toNat = 0
    · rw [sub_succ_toNat_of_eq h, if_neg (by omega), h, ramGet_ramSet, if_pos (eq_of_sub_toNat_eq_zero h)]
      rfl
    · have hne : a ≠ base := by rintro rfl; simp at h
      rw [sub_succ_toNat (by omega), ramGet_ramSet, if_neg hne]
      obtain ⟨k, hk⟩ := Nat.exists_eq_succ_of_ne_zero h
      simp [hk]

theorem mem_romProtect_iff (n : Nat) (base a : Linear) (l : List Nat) (hn : n ≤ 2 ^ 20) :
    a.toNat ∈ romProtect n base l ↔ (a - base).toNat < n ∨ a.toNat ∈ l := by
  induction n generalizing base l with
  | zero => simp [romProtect]
  | succ n ih =>
    rw [romProtect, ih _ _ (by omega), mem_sortedInsert, BitVec.toNat_inj]
    by_cases h : (a - base).toNat = 0
    · simp [eq_of_sub_toNat_eq_zero h]
    · have hne : a ≠ base := by rintro rfl; simp at h
      rw [sub_succ_toNat (by omega)]
      have : (a - base).toNat - 1 < n ↔ (a - base).toNat < n + 1 := by omega
      simp only [this, hne, false_or]

/-! ## What no step inside a batch changes (R851) -/

/-- The read-only bits, the boot drive, and each drive but for its contents are those of s. -/
structure SetUpKept (s t : State) : Prop where
  bootDrive : t.bootDrive = s.bootDrive
  readonly : t.readonly = s.readonly
  drives : ∀ d, { t.disk.at d with backing := (s.disk.at d).backing } = s.disk.at d

namespace SetUpKept
variable {s t u : State}

theorem congr (h : SetUpKept s t) (hb : u.bootDrive = t.bootDrive := by simp) (hr : u.readonly = t.readonly := by simp)
    (hd : ∀ d, u.disk.at d = t.disk.at d := by simp) : SetUpKept s u :=
  ⟨hb.trans h.bootDrive, hr.trans h.readonly, fun d => by rw [hd d]; exact h.drives d⟩

theorem storeSector (h : SetUpKept s t) (d : Byte) (o : Nat) (bytes : List Byte) :
    SetUpKept s (storeSector d o bytes t) where
  bootDrive := h.bootDrive
  readonly := h.readonly
  drives n := by
    have hat := Disk.at_setAt t.disk d n { t.disk.at d with backing := backingWrite bytes o (t.disk.at d).backing }
    rw [Machine.storeSector, State.setDisk_disk, hat]
    split
    · rename_i hn; subst hn; exact h.drives n
    · exact h.drives n

theorem loopStable (s : State) : LoopStable (SetUpKept s) where
  instr _ :=
    { regs := fun _ _ h => h.congr
      sreg := fun _ _ _ _ h => h.congr
      ip := fun _ _ h => h.congr
      flags := fun _ _ _ _ _ h => h.congr
      run := fun _ _ _ h => h.congr
      segOverride := fun _ _ _ h => h.congr
      rep := fun _ _ _ h => h.congr
      draws := fun _ _ h => h.congr
      touch8 := fun _ _ h => h.congr
      write8 := fun _ _ _ h => h.congr
      portRead8 := fun _ _ h => h.congr
      portWrite8 := fun _ _ _ h => h.congr
      storeSector := fun _ d o bytes _ _ h => h.storeSector d o bytes
      status := fun _ _ _ _ _ h => h.congr rfl rfl fun _ => rfl
      setMode := fun u m noblank row _ _ h =>
        have hd := (blankedAtMost_setMode m noblank row u).devices
        h.congr hd.bootDrive hd.readonly fun _ => by rw [hd.disk]; rfl }
  instrIP _ _ h := h.congr
  batch _ _ h := h.congr
  events _ _ h := h.congr
  pic _ _ h := h.congr
  hostRunning _ _ h := h.congr
  hardReset _ _ h := h.congr

/-- Inside a batch no event that sets the machine up is due. -/
theorem not_setsUp_of_isDue {e : HostEvent} (hb : s.batch ≠ none) (hd : isDue e s = true) : setsUp e = false := by
  have hnone : s.batch.isNone = false := Bool.eq_false_iff.2 (mt Option.isNone_iff_eq_none.1 hb)
  cases e
  case pass | raise | addTicks | stop | hardReset => rfl
  case shutdown => cases hd
  all_goals exact absurd hd (ne_true_of_eq_false hnone)

theorem step (hr : s.run = .running ∨ s.run = .halted) (hb : s.batch ≠ none) (he : step s = .next t) : SetUpKept s t := by
  rw [step_live hr] at he
  have hs : SetUpKept s s := ⟨rfl, rfl, fun _ => rfl⟩
  obtain he | ⟨e, rest, -, hd, he⟩ := hostStep_next he
  · exact (loopStable s).onAdvance he hs
  · exact (loopStable s).onEvent (not_setsUp_of_isDue hb hd) he hs.congr

end SetUpKept

/-! ## The operations, each one step -/

section
variable {s : State} {e : HostEvent} {rest : List HostEvent} (hr : s.run = .running ∨ s.run = .halted)
  (he : s.events = e :: rest)
include hr he

theorem step_due (hd : isDue e s = true) : step s = applyEvent e (s.setEvents rest) :=
  (step_live hr).trans (hostStep_due he hd)

theorem step_waits (hd : isDue e s = false) : step s = advance s := (step_live hr).trans (hostStep_waits he hd)

end

/-- An event that waits: the shutdown, or one that is done between batches only (R851, R873). -/
theorem isDue_eq_false {s : State} {e : HostEvent} (h : e = .shutdown ∨ s.batch ≠ none ∧ ((∃ more, e = .step more) ∨
    (∃ base bytes, e = .loadRom base bytes) ∨ (∃ d size contents, e = .insertImage d size contents) ∨
    (∃ d size cyls sects heads contents, e = .insertRaw d size cyls sects heads contents) ∨ (∃ d, e = .eject d) ∨
    ∃ d, e = .setBootDrive d)) : isDue e s = false := by
  obtain rfl | ⟨hb, h⟩ := h
  · rfl
  · have hnone : s.batch.isNone = false := Bool.eq_false_iff.2 (mt Option.isNone_iff_eq_none.1 hb)
    obtain ⟨_, rfl⟩ | ⟨_, _, rfl⟩ | ⟨_, _, _, rfl⟩ | ⟨_, _, _, _, _, _, rfl⟩ | ⟨_, rfl⟩ | ⟨_, rfl⟩ := h <;> exact hnone

/-- The state after `load_rom` (R113), for an image that does not wrap onto itself. -/
theorem loadRom_bytes (base : Linear) (bytes : List Byte) (hn : bytes.length ≤ 2 ^ 20) (s : State) (a : Linear) :
    ((a - base).toNat < bytes.length → ramGet (loadRom base bytes s).ram a = bytes.getD (a - base).toNat 0 ∧
      isReadonly a (loadRom base bytes s) = true) ∧
    (bytes.length ≤ (a - base).toNat → ramGet (loadRom base bytes s).ram a = ramGet s.ram a ∧
      isReadonly a (loadRom base bytes s) = isReadonly a s) := by
  have hget := ramGet_romCopy bytes base a s.ram hn
  have hro := mem_romProtect_iff bytes.length base a s.readonly hn
  refine ⟨fun h => ⟨hget.trans (if_pos h), List.contains_iff_mem.2 (hro.2 (.inl h))⟩,
    fun h => ⟨hget.trans (if_neg (by omega)), ?_⟩⟩
  rw [Bool.eq_iff_iff]
  exact List.contains_iff_mem.trans ((hro.trans (or_iff_right (by omega))).trans List.contains_iff_mem.symm)

/-- Settles O56. -/
theorem hostOperations : Obligations.HostOperations := by
  refine ⟨fun s hr he => (step_live hr).trans (hostStep_nil he),
    fun s e rest hr he hw => step_waits hr he (isDue_eq_false hw), fun s t hr hb he => ?kept,
    fun s e rest hr he => ?anyTime, fun s e rest hr he hb => ?between⟩
  case kept =>
    have h := SetUpKept.step hr hb he
    exact ⟨h.bootDrive, h.readonly, h.drives⟩
  case anyTime =>
    refine ⟨?pass, ?raise, ?addTicks, ?stop, ?hardReset⟩
    case pass =>
      rintro rfl
      rw [step_due hr he rfl]
      change (if s.batch.isSome then advance (s.setEvents rest) else .next (s.setEvents rest)) = _
      cases hb : s.batch <;> rfl
    case raise => rintro irq rfl; exact step_due hr he rfl
    case addTicks => rintro k rfl; exact step_due hr he rfl
    case stop => rintro rfl; exact step_due hr he rfl
    case hardReset => rintro rfl; exact step_due hr he rfl
  case between =>
    have hnone : s.batch.isNone = true := by simp [hb]
    have hother (d : Byte) (v : Drive) : ∀ n, n ≠ d → (s.disk.setAt d v).at n = s.disk.at n :=
      fun n hn => Disk.at_setAt_other s.disk v hn
    refine ⟨?step, ?setBootDrive, ?loadRom, ?insertImage, ?insertRaw, ?eject⟩
    case step => rintro more rfl; exact (step_due hr he hnone).trans (batchSlot_eq_advance more _)
    case setBootDrive => rintro d rfl; exact step_due hr he hnone
    case loadRom =>
      rintro base bytes rfl hn
      exact ⟨_, step_due hr he hnone, loadRom_bytes base bytes hn _, rfl⟩
    case insertImage =>
      rintro d size contents rfl
      have hat := Disk.at_setAt_same s.disk d ⟨true, false, backingOf size contents, size, (imageGeometry d size).1,
        (imageGeometry d size).2.1, (imageGeometry d size).2.2⟩
      exact ⟨_, step_due hr he hnone, congrArg (·.inserted) hat, congrArg (·.raw) hat, congrArg (·.size) hat,
        fun n => (congrArg (·.backing.get 0#8 n) hat).trans (get_backingOf size contents n),
        (congrArg (fun v : Drive => (v.cyls, v.sects, v.heads)) hat).trans (imageGeometry_eq d size), hother d _, rfl, rfl, rfl⟩
    case insertRaw =>
      rintro d size cyls sects heads contents rfl
      have hat := Disk.at_setAt_same s.disk d ⟨true, true, backingOf size contents, size, cyls, sects, heads⟩
      exact ⟨_, step_due hr he hnone, congrArg (·.inserted) hat, congrArg (·.raw) hat, congrArg (·.size) hat,
        congrArg (·.cyls) hat, congrArg (·.sects) hat, congrArg (·.heads) hat,
        fun n => (congrArg (·.backing.get 0#8 n) hat).trans (get_backingOf size contents n), hother d _, rfl, rfl, rfl⟩
    case eject =>
      rintro d rfl
      exact ⟨_, step_due hr he hnone, Disk.at_setAt_same s.disk d _, hother d _, rfl, rfl, rfl⟩

end Sys2Proof.Machine
end

section
/-! PROOFS. Byte and word accesses to memory (spec/20_memory.md R101 to R107). -/

namespace Sys2Proof.Machine

section
variable (s : State) (a : Linear) (v : Word)

theorem add_one_ne (a : Linear) : a + 1 ≠ a := by bv_omega

/-- A word is written byte by byte, each gated by its own bit (R104): what the low and the high byte read as. -/
theorem peek8_write16_low : peek8 a (write16 a v s) = peek8 a (write8 a (lowByte v) s) :=
  peek8_write8_other _ _ (add_one_ne a).symm

theorem peek8_write16_high (hro : isReadonly (a + 1) s = false) (ha : inAperture (a + 1) = false) :
    peek8 (a + 1) (write16 a v s) = highByte v :=
  peek8_write8_ram _ _ ((isReadonly_congr _ (by simp)).trans hro) ha

theorem peek8_write16_high_readonly (hro : isReadonly (a + 1) s = true) : peek8 (a + 1) (write16 a v s) = peek8 (a + 1) s := by
  rw [write16, write8_of_readonly _ _ ((isReadonly_congr _ (by simp)).trans hro), peek8_write8_other _ _ (add_one_ne a)]

end

/-- Settles O14. -/
theorem byteWritesReadBack : Obligations.ByteWritesReadBack := by
  intro a b v s
  refine ⟨fun hro ha => peek8_write8_ram s v hro ha, fun hro => write8_of_readonly s v hro,
    fun hne => peek8_write8_other s v hne, ?_⟩
  rw [inAperture_iff]
  omega

/-- Settles O15: the low byte is written first, and the high byte does not reach it. -/
theorem wordsAreTwoBytes : Obligations.WordsAreTwoBytes := by
  intro a v s
  have hlow (ha : inAperture a = false) (hro : isReadonly a s = false) : peek8 a (write16 a v s) = lowByte v :=
    (peek8_write16_low s a v).trans (peek8_write8_ram s _ hro ha)
  have hhigh (ha : inAperture (a + 1) = false) (hro : isReadonly (a + 1) s = false) := peek8_write16_high s a v hro ha
  refine ⟨by rw [read16_eq]; rfl, hlow, hhigh, fun hro => ?_, peek8_write16_high_readonly s a v, fun ha hro ha' hro' => ?_⟩
  · exact (peek8_write16_low s a v).trans (by rw [write8_of_readonly _ _ hro]; rfl)
  · rw [read16_eq, peek16, hlow ha hro, hhigh ha' hro', highByte_append_lowByte]

end Sys2Proof.Machine
end

section
/-! PROOFS. The attribute controller, and what the adapter stores through its ports (spec/49_video_adapter.md R691 to
R693, R706 to R708). -/

namespace Sys2Proof.Machine

/-! ## The attribute controller (R691) -/

theorem portWrite8_attr (v : Byte) (s : State) :
    portWrite8 0x3C0#16 v s = s.setVideo { s.video with attr := s.video.attr.write v } :=
  portWrite8_of_register (port := .attr) rfl (by decide) v

theorem AttrCtl.write_of_address {a : AttrCtl} (h : a.flipflop = .address) (v : Byte) :
    a.write v = { a with index := v.extractLsb' 0 5, flipflop := .data } := by simp [AttrCtl.write, h]

theorem AttrCtl.write_of_data_palette {a : AttrCtl} (h : a.flipflop = .data) (hi : a.index.toNat < 16) (v : Byte) :
    a.write v = { a with palette := a.palette.set 0#24 a.index.toNat (egaColour v), flipflop := .address } := by
  simp [AttrCtl.write, h, hi]

theorem AttrCtl.write_of_data_attr {a : AttrCtl} (h : a.flipflop = .data) (hi : 16 ≤ a.index.toNat) (v : Byte) :
    a.write v = { a with attr := a.attr.set 0#8 a.index.toNat v, flipflop := .address } := by
  simp [AttrCtl.write, h, Nat.not_lt.2 hi]

/-! ## Reading the status (R693) -/

theorem portAt_status : ∀ p ∈ [0x3BA#16, 0x3DA#16], portAt p = .status := List.all_iff_forall_prop.1 rfl

theorem portRead8_status {p : Word} (hp : p ∈ [0x3BA#16, 0x3DA#16]) (s : State) : portRead8 p s = statusRead s := by
  unfold portRead8
  rw [portAt_status p hp]

/-- Bits 7 to 4 are set and bit 2 is clear, whatever the free bits are. -/
theorem statusByte_fixed (t : Byte) : (0xF0#8 ||| (t &&& 0x0B#8)) &&& 0xF4#8 = 0xF0#8 := by
  have hfree : 0x0B#8 &&& 0xF4#8 = 0 := rfl
  rw [BitVec.and_comm, BitVec.and_or_distrib_left, BitVec.and_comm t, ← BitVec.and_assoc, BitVec.and_comm 0xF4#8 0x0B#8, hfree]
  simp

/-! ## Colours (R692) -/

theorem toNat_egaLevel (hi lo : Bool) :
    (egaLevel hi lo).toNat = [0x00, 0xAA, 0x55, 0xFF].getD (2 * hi.toNat + lo.toNat) 0 := by cases hi <;> cases lo <;> rfl

/-- Three bytes side by side, as a number. -/
theorem toNat_append3 (x y z : Byte) : (x ++ y ++ z).toNat = 2 ^ 16 * x.toNat + 2 ^ 8 * y.toNat + z.toNat := by
  have hy := y.isLt
  have hz := z.isLt
  rw [BitVec.toNat_append, BitVec.toNat_append, ← Nat.shiftLeft_add_eq_or_of_lt hz, ← Nat.shiftLeft_add_eq_or_of_lt hy,
    Nat.shiftLeft_eq, Nat.shiftLeft_eq]
  omega

/-- Settles O29: a write is `AttrCtl.write`, a status read `statusRead`. -/
theorem attributeWritesAlternate : Obligations.AttributeWritesAlternate := by
  intro s v
  dsimp only
  rw [portWrite8_attr]
  refine ⟨fun h => ?_, fun h hi => ?_, fun h hi => ?_, fun p hp => ?_, ?_⟩
  · rw [AttrCtl.write_of_address h]
  · rw [AttrCtl.write_of_data_palette h hi]
  · rw [AttrCtl.write_of_data_attr h hi]
  · rw [portRead8_status hp]
    exact ⟨statusByte_fixed _, rfl⟩
  · rw [egaColour, toNat_append3, toNat_egaLevel, toNat_egaLevel, toNat_egaLevel]

/-! ## The DAC: three writes, three reads (R706) -/

/-- A DAC entry of three six-bit channels. -/
def dacColour (r g b : Byte) : Rgb := ((r &&& 0x3F#8) ++ (g &&& 0x3F#8) ++ (b &&& 0x3F#8) : BitVec 24) <<< 2

theorem getLsbD_and_3F (x : Byte) (k : Nat) : (x &&& 0x3F#8).getLsbD k = (decide (k < 6) && x.getLsbD k) := by
  have hsix : (0x3F#8).getLsbD k = (decide (k < 8) && decide (k < 6)) := getLsbD_lowMask 8 6 k
  rw [BitVec.getLsbD_and, hsix]
  by_cases h : k < 6
  · simp [h, show k < 8 by omega]
  · simp [h]

/-- The bits of such an entry: channel by channel, six bits above two clear ones. -/
theorem getLsbD_dacColour (r g b : Byte) {k : Nat} (hk : k < 24) : (dacColour r g b).getLsbD k =
    if 16 ≤ k then decide (18 ≤ k) && r.getLsbD (k - 18)
    else if 8 ≤ k then decide (10 ≤ k) && g.getLsbD (k - 10)
    else decide (2 ≤ k) && b.getLsbD (k - 2) := by
  simp only [dacColour, BitVec.getLsbD_shiftLeft, BitVec.getLsbD_append, getLsbD_and_3F]
  grind

/-- Three writes replace the whole entry. -/
theorem dacInsert_three (e : Rgb) (r g b : Byte) :
    dacInsert (dacInsert (dacInsert e 16 r) 8 g) 0 b = dacColour r g b := by
  refine BitVec.eq_of_getLsbD_eq fun k hk => ?_
  rw [getLsbD_dacInsert _ _ _ hk, getLsbD_dacInsert _ _ _ hk, getLsbD_dacInsert _ _ _ hk, getLsbD_dacColour _ _ _ hk]
  grind

/-- The value the channel of a DAC whose entry holds three channels reads as. -/
theorem Dac.readValue_of_entry {d : Dac} {r g b : Byte} (h : d.entry d.readIndex = dacColour r g b) :
    d.readValue = (match d.channel with | .r => r | .g => g | .b => b) &&& 0x3F#8 := by
  refine BitVec.eq_of_getLsbD_eq fun k hk => ?_
  rw [d.getLsbD_readValue hk, h, getLsbD_and_3F]
  by_cases h6 : k < 6
  · cases hc : d.channel
    all_goals
      simp only [DacChannel.shift, h6, decide_true, Bool.true_and]
      rw [getLsbD_dacColour _ _ _ (by omega)]
      grind
  · simp [h6]

/-- Writing the three channels of entry i from the red one on. -/
theorem Dac.entry_write_three (d : Dac) (i r g b : Byte) :
    ((((d.setWriteIndex i).write r).write g).write b).entry i = dacColour r g b := by
  rw [← dacInsert_three ((d.setWriteIndex i).entry i)]
  refine (Dac.entry_write_same (((d.setWriteIndex i).write r).write g) b).trans ?_
  refine congrArg (dacInsert · 0 b) ?_
  refine (Dac.entry_write_same ((d.setWriteIndex i).write r) g).trans ?_
  exact congrArg (dacInsert · 8 g) (Dac.entry_write_same (d.setWriteIndex i) r)

/-- R707: after a status read an index below 16 and a byte set a palette entry. -/
theorem palette_of_attr_writes {s : State} (ha : s.video.attr.flipflop = .address) {i : Byte} (hi : i.toNat < 16) (v : Byte) :
    let w := portWrite8 0x3C0#16 v (portWrite8 0x3C0#16 i s)
    w.video.attr.palette.get 0#24 i.toNat = egaColour v ∧ w.video.attr.flipflop = .address := by
  have hidx : (i.extractLsb' 0 5).toNat = i.toNat := by
    rw [toNat_extractLsb'_zero, Nat.and_two_pow_sub_one_eq_mod]
    omega
  have hwrite := AttrCtl.write_of_address ha i
  have hdata : (s.video.attr.write i).flipflop = .data := congrArg (·.flipflop) hwrite
  have hlow : (s.video.attr.write i).index.toNat = i.toNat := (congrArg (·.index.toNat) hwrite).trans hidx
  have hpalette := AttrCtl.write_of_data_palette hdata (hlow ▸ hi) v
  rw [hlow] at hpalette
  rw [portWrite8_attr, portWrite8_attr]
  exact ⟨(congrArg (·.palette.get 0#24 i.toNat) hpalette).trans (Table.get_set_same ..), congrArg (·.flipflop) hpalette⟩

/-! ## The CRTC file (R708) -/

theorem portWrite8_crtcIndex (i : Byte) (s : State) : portWrite8 0x3D4#16 i s = s.setVideo { s.video with crtcIndex := i } :=
  portWrite8_of_register (port := .crtcIndex) rfl (by decide) i

theorem crtcData_access (v : Byte) (s : State) :
    portRead8 0x3D5#16 s = (s.video.crtc.get 0#8 (s.video.crtcIndex &&& 0x1F#8).toNat, s) ∧
      portWrite8 0x3D5#16 v s =
        s.setVideo { s.video with crtc := s.video.crtc.set 0#8 (s.video.crtcIndex &&& 0x1F#8).toNat v } := by
  rw [← Video.crtcSlot_eq]
  exact access_of_portValue (port := .crtcData) rfl rfl

/-- Settles O31: the ports' writes and reads composed. -/
theorem adapterRoundTrips : Obligations.AdapterRoundTrips := by
  intro s i v r g b
  have hindex (s : State) : portWrite8 0x3C8#16 i s = s.setVideo { s.video with dac := s.video.dac.setWriteIndex i } :=
    portWrite8_of_register (port := .dacWriteIndex) rfl (by decide) i
  have hread (s : State) : portWrite8 0x3C7#16 i s = s.setVideo { s.video with dac := s.video.dac.setReadIndex i } :=
    portWrite8_of_register (port := .dacReadIndex) rfl (by decide) i
  refine ⟨?dac, fun p hp => ⟨?flipflop, fun hi => ?palette⟩, ?crtc⟩
  case dac =>
    simp only [hindex, hread, portWrite8_dacData, portRead8_dacData]
    have he := s.video.dac.entry_write_three i r g b
    exact ⟨he, Dac.readValue_of_entry he, Dac.readValue_of_entry he, Dac.readValue_of_entry he⟩
  case flipflop =>
    rw [portRead8_status hp]
    rfl
  case palette =>
    rw [portRead8_status hp]
    exact palette_of_attr_writes rfl hi v
  case crtc =>
    have hstored : (portWrite8 0x3D5#16 v (portWrite8 0x3D4#16 i s)).video.crtc.get 0#8 (i &&& 0x1F#8).toNat = v := by
      rw [(crtcData_access v _).2, portWrite8_crtcIndex]
      exact Table.get_set_same ..
    refine ⟨hstored, ?_, ?_⟩
    · rw [(crtcData_access v (portWrite8 0x3D5#16 v (portWrite8 0x3D4#16 i s))).1]
      refine congrArg (·, _) (Eq.trans ?_ hstored)
      rw [(crtcData_access v _).2, portWrite8_crtcIndex]
      rfl
    · rw [portWrite16, lowByte_append, highByte_append]
      rfl

end Sys2Proof.Machine
end

section
/-! PROOFS. The identity configuration of the planar memory controller (spec/49_video_adapter.md R738). -/

namespace Sys2Proof.Machine

/-- The address of an aperture offset. -/
theorem toNat_apertureAddr (k : Word) : (0xA0000#20 + k.setWidth 20).toNat = 0xA0000 + k.toNat := by
  have hk := k.isLt
  simp only [BitVec.toNat_add, BitVec.toNat_setWidth, BitVec.toNat_ofNat]
  omega

theorem inAperture_apertureAddr (k : Word) : inAperture (0xA0000#20 + k.setWidth 20) = true := by
  have hk := k.isLt
  rw [inAperture_iff, toNat_apertureAddr]
  omega

theorem apertureOffset_apertureAddr (k : Word) : apertureOffset (0xA0000#20 + k.setWidth 20) = k.toNat := by
  have hk := k.isLt
  rw [apertureOffset_eq, toNat_apertureAddr]
  omega

/-- A bit under a mask is the bit of what the mask leaves. -/
theorem getLsbD_of_and_eq {x m y : Byte} (h : x &&& m = y) {j : Nat} (hm : m.getLsbD j = true) :
    x.getLsbD j = y.getLsbD j := by
  rw [← h, BitVec.getLsbD_and, hm, Bool.and_true]

/-- R738: write mode 0, no set/reset, all bits from the CPU, no rotation, no logic operation. -/
structure Video.Identity (v : Video) : Prop where
  writeMode : v.gcReg 5 &&& 3#8 = 0
  setReset : v.gcReg 1 &&& 0x0F#8 = 0
  bitMask : v.gcReg 8 = 0xFF#8
  function : v.gcReg 3 &&& 0x1F#8 = 0

theorem bitMaskLane_ones (old x : Byte) : bitMaskLane 0xFF#8 old x = x := by
  have h : (0xFF#8 : Byte) = BitVec.allOnes 8 := rfl
  rw [bitMaskLane, h, BitVec.and_allOnes, BitVec.not_allOnes, BitVec.and_zero, BitVec.or_zero]

/-- Every lane of U is then the byte written. -/
theorem Video.Identity.planarLane {v : Video} (h : v.Identity) (b : Byte) (i : BitVec 2) : v.planarLane b i = b := by
  have hi : i.toNat < 4 := i.isLt
  have hsr : (v.gcReg 1).getLsbD i.toNat = false := by
    have hm : (0x0F#8).getLsbD i.toNat = true := (getLsbD_lowMask 8 4 _).trans (by simp; omega)
    simpa using getLsbD_of_and_eq h.setReset hm
  have hrot : v.gcReg 3 &&& 7#8 = 0 := by
    have h7 : 7#8 = 0x1F#8 &&& 7#8 := rfl
    rw [h7, ← BitVec.and_assoc, h.function]
    simp
  have hop : v.logicOp.toNat = 0 := by
    have hmod : (v.gcReg 3).toNat % 2 ^ 5 = 0 := by
      rw [← Nat.and_two_pow_sub_one_eq_mod]
      exact (BitVec.toNat_and _ 0x1F#8).symm.trans (congrArg BitVec.toNat h.function)
    rw [Video.logicOp, BitVec.extractLsb'_toNat, Nat.shiftRight_eq_div_pow]
    omega
  have hzero : b.rotateRight 0 = b := by simp [BitVec.rotateRight_def]
  have hmask : v.bitMask = 0xFF#8 := h.bitMask
  simp [Video.planarLane, h.writeMode, hsr, hrot, hmask, bitMaskLane_ones, aluLane, hop, hzero]

/-- Settles O34. -/
theorem identityConfigurationStoresTheByte : Obligations.IdentityConfigurationStoresTheByte := by
  intro s k b i v a hmode hsr hmask hfn hpwe hro
  have hid : v.Identity := ⟨hmode, hsr, hmask, hfn⟩
  have ha : inAperture a = true := inAperture_apertureAddr k
  have hoff : apertureOffset a = k.toNat := apertureOffset_apertureAddr k
  have hw := write8_aperture ha hro b
  have hplane (i : BitVec 2) : planeGet ((write8 a b s).video.planes.plane i) k.toNat = b := by
    have henabled : (v.seqReg 2).getLsbD i.toNat = true := by
      have hi : i.toNat < 4 := i.isLt
      have hm : (0x0F#8).getLsbD i.toNat = true := (getLsbD_lowMask 8 4 _).trans (by simp; omega)
      exact (getLsbD_of_and_eq hpwe hm).trans hm
    rw [hw, hoff]
    exact (v.planeGet_planarStore i _ b).trans ((if_pos henabled).trans (hid.planarLane b i))
  refine ⟨hplane i, fun hread => ?_⟩
  have hbyte : peek8 a (write8 a b s) = (write8 a b s).video.planarByte k.toNat := (if_pos ha).trans (by rw [hoff])
  have hreg : (write8 a b s).video.readMode = false := by rw [hw]; exact hread
  exact hbyte.trans ((if_neg (ne_true_of_eq_false hreg)).trans (hplane _))

end Sys2Proof.Machine
end

section
/-! PROOFS. What the arithmetic flags mean (spec/41_arithmetic.md R300 to R302). -/

namespace Sys2Proof.Machine

section
variable {w : Nat}

/-! ## Sums and differences as numbers -/

theorem toNat_ofNat_bool (hw : 0 < w) (c : Bool) : (BitVec.ofNat w c.toNat).toNat = c.toNat := by
  rw [BitVec.toNat_ofNat]
  have h1 : 1 < 2 ^ w := Nat.one_lt_two_pow (by omega)
  have hc : c.toNat ≤ 1 := Bool.toNat_le c
  exact Nat.mod_eq_of_lt (by omega)

theorem toNat_addResult (hw : 0 < w) (a b : BitVec w) (c : Bool) :
    (addResult a b c).toNat = (a.toNat + b.toNat + c.toNat) % 2 ^ w := by
  rw [addResult, BitVec.toNat_add, BitVec.toNat_add, toNat_ofNat_bool hw, Nat.mod_add_mod]

/-- The carry is what the result lacks of the sum. -/
theorem addResult_add_carry (hw : 0 < w) (a b : BitVec w) (c : Bool) :
    (addResult a b c).toNat + 2 ^ w * (decide (2 ^ w ≤ a.toNat + b.toNat + c.toNat)).toNat =
      a.toNat + b.toNat + c.toNat := by
  have ha := a.isLt
  have hb := b.isLt
  have hc : c.toNat ≤ 1 := Bool.toNat_le c
  rw [toNat_addResult hw]
  by_cases h : 2 ^ w ≤ a.toNat + b.toNat + c.toNat
  · rw [Nat.mod_eq_sub_mod h, Nat.mod_eq_of_lt (by omega), decide_eq_true h, Bool.toNat_true]
    omega
  · rw [Nat.mod_eq_of_lt (by omega), decide_eq_false h, Bool.toNat_false]
    omega

/-- A difference and what was taken give the first operand back. -/
theorem addResult_subResult (a b : BitVec w) (c : Bool) : addResult (subResult a b c) b c = a := by
  rw [addResult, subResult]
  abel

/-- The borrow is what the operand lacks. -/
theorem subResult_add_borrow (hw : 0 < w) (a b : BitVec w) (c : Bool) :
    (subResult a b c).toNat + b.toNat + c.toNat = a.toNat + 2 ^ w * (decide (a.toNat < b.toNat + c.toNat)).toNat := by
  have hr := (subResult a b c).isLt
  have ha := a.isLt
  have h := addResult_add_carry hw (subResult a b c) b c
  rw [addResult_subResult] at h
  rw [← h]
  congr 3
  rw [decide_eq_decide]
  by_cases hcarry : 2 ^ w ≤ (subResult a b c).toNat + b.toNat + c.toNat
  · rw [decide_eq_true hcarry, Bool.toNat_true] at h
    omega
  · rw [decide_eq_false hcarry, Bool.toNat_false] at h
    omega

/-! ## Signs -/

/-- A word's sign, its signed and its unsigned value, M being half the range. -/
theorem sign_cases {M : Nat} (hM : 2 ^ w = 2 * M) (hw : 0 < w) (x : BitVec w) :
    x.msb = false ∧ x.toInt = x.toNat ∧ x.toNat < M ∨
      x.msb = true ∧ x.toInt = x.toNat - 2 * M ∧ M ≤ x.toNat ∧ x.toNat < 2 * M := by
  have hx := x.isLt
  have hhalf : 2 ^ (w - 1) = M := by
    obtain ⟨k, rfl⟩ := Nat.exists_eq_succ_of_ne_zero hw.ne'
    rw [Nat.pow_succ] at hM
    simp only [Nat.succ_eq_add_one, Nat.add_sub_cancel]
    omega
  have hmsb := x.msb_eq_decide
  have hint := x.toInt_eq_msb_cond
  rw [hhalf] at hmsb
  have hcast : ((2 ^ w : Nat) : Int) = 2 * M := by rw [hM]; push_cast; rfl
  rw [hcast] at hint
  by_cases h : M ≤ x.toNat
  · rw [decide_eq_true h] at hmsb
    rw [hmsb, if_pos rfl] at hint
    exact .inr ⟨hmsb, hint, h, by omega⟩
  · rw [decide_eq_false h] at hmsb
    rw [hmsb, if_neg Bool.false_ne_true] at hint
    exact .inl ⟨hmsb, hint, by omega⟩

theorem two_pow_eq_two_mul (hw : 0 < w) : 2 ^ w = 2 * 2 ^ (w - 1) := by
  rw [← Nat.pow_succ', Nat.succ_eq_add_one, Nat.sub_add_cancel hw]

/-- Two operands of one sign whose sum has the other: the signed sum does not fit. -/
theorem add_overflow_iff (hw : 0 < w) {a b r : BitVec w} {c k : Bool}
    (h : r.toNat + 2 ^ w * k.toNat = a.toNat + b.toNat + c.toNat) :
    (a.msb == b.msb && a.msb != r.msb) = true ↔ r.toInt ≠ a.toInt + b.toInt + c.toNat := by
  obtain ⟨M, hM⟩ : ∃ M, 2 ^ w = 2 * M := ⟨_, two_pow_eq_two_mul hw⟩
  have hc : c.toNat ≤ 1 := Bool.toNat_le c
  rw [hM] at h
  obtain ⟨ha, hai, ha'⟩ | ⟨ha, hai, ha'⟩ := sign_cases hM hw a
  all_goals
    obtain ⟨hb, hbi, hb'⟩ | ⟨hb, hbi, hb'⟩ := sign_cases hM hw b
    all_goals
      obtain ⟨hr, hri, hr'⟩ | ⟨hr, hri, hr'⟩ := sign_cases hM hw r
      all_goals
        rw [ha, hb, hr, hai, hbi, hri]
        cases k <;> simp only [Bool.toNat_true, Bool.toNat_false] at h <;> simp <;> omega

/-- Operands of two signs whose difference has not the first one's: the signed difference does not fit, for the sum that
gives the first operand back does not. -/
theorem sub_overflow_iff (hw : 0 < w) {a b r : BitVec w} {c k : Bool}
    (h : r.toNat + b.toNat + c.toNat = a.toNat + 2 ^ w * k.toNat) :
    (a.msb != b.msb && a.msb != r.msb) = true ↔ r.toInt ≠ a.toInt - b.toInt - c.toNat := by
  have hsign : (a.msb != b.msb && a.msb != r.msb) = (r.msb == b.msb && r.msb != a.msb) := by
    cases a.msb <;> cases b.msb <;> cases r.msb <;> rfl
  rw [hsign, add_overflow_iff hw h.symm]
  omega

/-! ## The digit carry -/

/-- Bit 4 of `a xor b xor r` is the carry out of the low digits. -/
theorem digitCarry_iff (hw : 4 < w) (a b : BitVec w) (c : Bool) :
    (a ^^^ b ^^^ addResult a b c).getLsbD 4 = true ↔ 16 ≤ a.toNat % 16 + b.toNat % 16 + c.toNat := by
  have hc : BitVec.ofNat w c.toNat = (BitVec.ofBool c).setWidth w := by
    cases c
    · simp
    · refine BitVec.eq_of_toNat_eq ?_
      simp
  have hsum := BitVec.getLsbD_add_add_bool hw a b c
  rw [← hc] at hsum
  rw [BitVec.getLsbD_xor, BitVec.getLsbD_xor, addResult, hsum]
  have hcarry : BitVec.carry 4 a b c = decide (16 ≤ a.toNat % 16 + b.toNat % 16 + c.toNat) := rfl
  rw [hcarry]
  cases a.getLsbD 4 <;> cases b.getLsbD 4 <;> simp

/-- Bit 4 of `a xor b xor r` is the borrow of the low digits. -/
theorem digitBorrow_iff (hw : 4 < w) (a b : BitVec w) (c : Bool) :
    (a ^^^ b ^^^ subResult a b c).getLsbD 4 = true ↔ a.toNat % 16 < b.toNat % 16 + c.toNat := by
  have hswap : a ^^^ b ^^^ subResult a b c = subResult a b c ^^^ b ^^^ addResult (subResult a b c) b c := by
    rw [addResult_subResult, BitVec.xor_comm a b, BitVec.xor_comm, ← BitVec.xor_assoc]
  rw [hswap, digitCarry_iff hw]
  have h := subResult_add_borrow (by omega) a b c
  obtain ⟨k, hk⟩ : ∃ k, w = 4 + k := ⟨w - 4, by omega⟩
  have hpow : 2 ^ w = 16 * 2 ^ k := by rw [hk, Nat.pow_add]
  rw [hpow, Nat.mul_assoc] at h
  have hc : c.toNat ≤ 1 := Bool.toNat_le c
  omega

/-! ## Parity -/

/-- A filter keeps an even number of elements iff the exclusive or of the tests is false. -/
theorem length_filter_even_iff {α : Type} (p : α → Bool) (l : List α) :
    (l.filter p).length % 2 = 0 ↔ (l.map p).foldr xor false = false := by
  induction l with
  | nil => simp
  | cons x l ih =>
    rw [List.filter_cons, List.map_cons, List.foldr_cons]
    cases p x
    · simpa using ih
    · rw [if_pos rfl, List.length_cons, Bool.true_xor, Bool.not_eq_false', ← Bool.not_eq_false, ← ih]
      omega

theorem parity8_iff (r : BitVec w) :
    parity8 r = true ↔ ((List.range 8).filter fun i => r.getLsbD i).length % 2 = 0 := by
  rw [length_filter_even_iff]
  have hrange : List.range 8 = [0, 1, 2, 3, 4, 5, 6, 7] := rfl
  simp [hrange, parity8]

/-! ## Zero and sign -/

theorem SzpAre.zf_iff {r : BitVec w} {t : State} (h : SzpAre r t) : flag .zf t = true ↔ r.toNat = 0 := by
  rw [h.zf, beq_iff_eq, ← BitVec.toNat_inj, BitVec.ofNat_eq_ofNat, BitVec.toNat_ofNat, Nat.zero_mod]

theorem SzpAre.sf_iff {r : BitVec w} {t : State} (h : SzpAre r t) : flag .sf t = true ↔ r.toInt < 0 := by
  rw [h.sf, BitVec.msb_eq_toInt, decide_eq_true_iff]

end

/-- Settles O37. -/
theorem arithmeticFlagsMeanWhatTheyName : Obligations.ArithmeticFlagsMeanWhatTheyName := by
  intro w a b c t hw
  have hpos : 0 < w := by omega
  refine ⟨fun h => ?add, fun r h => h.pf ▸ parity8_iff r, fun h => ?sub⟩
  case add =>
    have hcarry := addResult_add_carry hpos a b c
    exact ⟨h.cf ▸ hcarry, h.of ▸ add_overflow_iff hpos hcarry, h.af ▸ digitCarry_iff (by omega) a b c, h.szp.zf_iff,
      h.szp.sf_iff⟩
  case sub =>
    have hborrow := subResult_add_borrow hpos a b c
    exact ⟨h.cf ▸ hborrow, h.of ▸ sub_overflow_iff hpos hborrow, h.af ▸ digitBorrow_iff (by omega) a b c, h.szp.zf_iff,
      h.szp.sf_iff⟩

end Sys2Proof.Machine
end

section
/-! PROOFS. Division, and the divide error (spec/41_arithmetic.md R314, R315, R320; spec/60_exceptions.md R765). -/

namespace Sys2Proof.Machine

section
variable (s : State)

/-! ## What the divisions answer -/

/-- R314. -/
theorem exec_div8 (rm : RM8) : exec (.div (.b rm)) s =
    if (rm8Value rm s).toNat = 0 ∨ 0xFF < (reg16 .ax s).toNat / (rm8Value rm s).toNat then divideError (afterRead8 rm s)
    else .next (undefine arithFlags
      (setReg8 .ah (BitVec.ofNat 8 ((reg16 .ax s).toNat % (rm8Value rm s).toNat))
        (setReg8 .al (BitVec.ofNat 8 ((reg16 .ax s).toNat / (rm8Value rm s).toNat)) (afterRead8 rm s)))) := by
  show execDiv (.b rm) s = _
  simp only [execDiv, readRM8_eq, reg16_afterRead8]

theorem exec_div16 (rm : RM16) : exec (.div (.w rm)) s =
    if (rm16Value rm s).toNat = 0 ∨ 0xFFFF < (reg16 .dx s ++ reg16 .ax s).toNat / (rm16Value rm s).toNat then
      divideError (afterRead16 rm s)
    else .next (undefine arithFlags
      (setReg16 .dx (BitVec.ofNat 16 ((reg16 .dx s ++ reg16 .ax s).toNat % (rm16Value rm s).toNat))
        (setReg16 .ax (BitVec.ofNat 16 ((reg16 .dx s ++ reg16 .ax s).toNat / (rm16Value rm s).toNat))
          (afterRead16 rm s)))) := by
  show execDiv (.w rm) s = _
  simp only [execDiv, readRM16_eq, reg16_afterRead16]

/-- R315. -/
theorem exec_idiv8 (rm : RM8) : exec (.idiv (.b rm)) s =
    if (rm8Value rm s).toInt = 0 ∨ 127 < (reg16 .ax s).toInt.tdiv (rm8Value rm s).toInt ∨
        (reg16 .ax s).toInt.tdiv (rm8Value rm s).toInt < (if s.params.idivAllowMostNegative then -128 else -127) then
      divideError (afterRead8 rm s)
    else .next (undefine arithFlags
      (setReg8 .ah (BitVec.ofInt 8 ((reg16 .ax s).toInt.tmod (rm8Value rm s).toInt))
        (setReg8 .al (BitVec.ofInt 8 ((reg16 .ax s).toInt.tdiv (rm8Value rm s).toInt)) (afterRead8 rm s)))) := by
  show execIdiv (.b rm) s = _
  simp only [execIdiv, readRM8_eq, reg16_afterRead8, idivLeast, afterRead8_params]
  rfl

theorem exec_idiv16 (rm : RM16) : exec (.idiv (.w rm)) s =
    if (rm16Value rm s).toInt = 0 ∨ 32767 < (reg16 .dx s ++ reg16 .ax s).toInt.tdiv (rm16Value rm s).toInt ∨
        (reg16 .dx s ++ reg16 .ax s).toInt.tdiv (rm16Value rm s).toInt <
          (if s.params.idivAllowMostNegative then -32768 else -32767) then
      divideError (afterRead16 rm s)
    else .next (undefine arithFlags
      (setReg16 .dx (BitVec.ofInt 16 ((reg16 .dx s ++ reg16 .ax s).toInt.tmod (rm16Value rm s).toInt))
        (setReg16 .ax (BitVec.ofInt 16 ((reg16 .dx s ++ reg16 .ax s).toInt.tdiv (rm16Value rm s).toInt))
          (afterRead16 rm s)))) := by
  show execIdiv (.w rm) s = _
  simp only [execIdiv, readRM16_eq, reg16_afterRead16, idivLeast, afterRead16_params]
  rfl

end

/-! ## Quotient and remainder -/

section
variable {i : Instr} {s : State}

theorem completes_quotient8 {rm : RM8} {q r : Byte}
    (h : exec i s = .next (undefine arithFlags (setReg8 .ah r (setReg8 .al q (afterRead8 rm s))))) :
    Completes i s (fun t => reg8 .al t = q ∧ reg8 .ah t = r ∧
      Frame { regs := [.ax], flags := arithFlags, reads := rmReads8 rm s } s t) := by
  refine ⟨_, h, ?_, ?_, (((Frame.afterRead8 rm (List.Subset.refl _)).setReg8 (.inr List.mem_cons_self) q).setReg8
    (.inr List.mem_cons_self) r).undefine (List.Subset.refl _)⟩
  · simp [reg8_setReg8]
  · simp

theorem completes_quotient16 {rm : RM16} {q r : Word}
    (h : exec i s = .next (undefine arithFlags (setReg16 .dx r (setReg16 .ax q (afterRead16 rm s))))) :
    Completes i s (fun t => reg16 .ax t = q ∧ reg16 .dx t = r ∧
      Frame { regs := [.ax, .dx], flags := arithFlags, reads := rmReads16 rm s } s t) := by
  refine ⟨_, h, ?_, ?_, (((Frame.afterRead16 rm (List.Subset.refl _)).setReg16 (by simp) q).setReg16
    (by simp) r).undefine (List.Subset.refl _)⟩
  · simp [reg16_setReg16]
  · simp

end

/-- A quotient that fits, and a remainder, which is below its divisor. -/
theorem toNat_ofNat_quotient {w : Nat} {n d : Nat} (h : n / d < 2 ^ w) : (BitVec.ofNat w (n / d)).toNat = n / d := by
  rw [BitVec.toNat_ofNat, Nat.mod_eq_of_lt h]

theorem toNat_ofNat_remainder {w : Nat} (n : Nat) {d : BitVec w} (hd : d.toNat ≠ 0) :
    (BitVec.ofNat w (n % d.toNat)).toNat = n % d.toNat := by
  rw [BitVec.toNat_ofNat, Nat.mod_eq_of_lt]
  exact lt_trans (Nat.mod_lt _ (Nat.pos_of_ne_zero hd)) d.isLt

/-- The truncating remainder is below the divisor in size, so it fits too. -/
theorem toInt_ofInt_remainder {w : Nat} (hw : 0 < w) (n : Int) {d : BitVec w} (hd : d.toInt ≠ 0) :
    (BitVec.ofInt w (n.tmod d.toInt)).toInt = n.tmod d.toInt := by
  have hlt : (n.tmod d.toInt).natAbs < d.toInt.natAbs := by
    rw [Int.natAbs_tmod]
    exact Nat.mod_lt _ (by omega)
  have hmax : d.toInt < 2 ^ (w - 1) := BitVec.toInt_lt
  have hmin := BitVec.le_toInt d
  exact BitVec.toInt_ofInt_eq_self hw (by omega) (by omega)

/-- Settles O40. -/
theorem divisionsInRangeGiveQuotientAndRemainder : Obligations.DivisionsInRangeGiveQuotientAndRemainder := by
  intro s
  refine ⟨fun rm hd hq => ?div8, fun rm hd hq => ?div16, fun rm hd hq hl => ?idiv8, fun rm hd hq hl => ?idiv16⟩
  case div8 =>
    obtain ⟨t, ht, hal, hah, hf⟩ := completes_quotient8 ((exec_div8 s rm).trans (if_neg (by omega)))
    exact ⟨t, ht, hal ▸ toNat_ofNat_quotient (by omega), hah ▸ toNat_ofNat_remainder _ hd, hf⟩
  case div16 =>
    obtain ⟨t, ht, hax, hdx, hf⟩ := completes_quotient16 ((exec_div16 s rm).trans (if_neg (by omega)))
    exact ⟨t, ht, hax ▸ toNat_ofNat_quotient (by omega), hdx ▸ toNat_ofNat_remainder _ hd, hf⟩
  case idiv8 =>
    obtain ⟨t, ht, hal, hah, hf⟩ := completes_quotient8 ((exec_idiv8 s rm).trans (if_neg (by omega)))
    have hmin : -2 ^ (8 - 1) ≤ (reg16 .ax s).toInt.tdiv (rm8Value rm s).toInt := le_trans (by split <;> decide) hl
    exact ⟨t, ht, hal ▸ BitVec.toInt_ofInt_eq_self (by decide) hmin (by omega),
      hah ▸ toInt_ofInt_remainder (by decide) _ hd, hf⟩
  case idiv16 =>
    obtain ⟨t, ht, hax, hdx, hf⟩ := completes_quotient16 ((exec_idiv16 s rm).trans (if_neg (by omega)))
    have hmin : -2 ^ (16 - 1) ≤ (reg16 .dx s ++ reg16 .ax s).toInt.tdiv (rm16Value rm s).toInt :=
      le_trans (by split <;> decide) hl
    exact ⟨t, ht, hax ▸ BitVec.toInt_ofInt_eq_self (by decide) hmin (by omega),
      hdx ▸ toInt_ofInt_remainder (by decide) _ hd, hf⟩

/-! ## The divide error -/

/-- Flags that are free after the sequence. -/
theorem Vectored.undefine {n : Byte} {ret : Word} {free : List Flag} {reads : List Linear} {u s t : State}
    (h : Vectored n ret free reads u s t) {ks : List Flag} (hk : ks ⊆ free) (hif : Flag.if ∉ ks) (htf : Flag.tf ∉ ks) :
    Vectored n ret free reads u s (undefine ks t) where
  sp := by simpa using h.sp
  mem := ((MemEq.refl t).undefine ks).same.trans h.mem
  ip := by simpa using h.ip
  cs := by simpa using h.cs
  ifClear := (flag_undefine_other t hif).trans h.ifClear
  tfClear := (flag_undefine_other t htf).trans h.tfClear
  run := (undefine_run t ks).trans h.run
  frame := h.frame.undefine (List.Subset.trans hk (List.subset_append_right _ _))

/-- R765: the error takes vector 0, in the state u that an instruction's reads leave; the six flags are free then. -/
theorem completes_divideError {i : Instr} {s u : State} {reads : List Linear} (h : exec i s = divideError u)
    (hu : Frame { reads := reads } s u) : Completes i s (Vectored 0 s.ip arithFlags reads u s) := by
  have hv := (vectored_of_reads hu s.ip 0 arithFlags).undefine (List.Subset.refl _) (by decide) (by decide)
  refine ⟨_, h.trans ?_, hv⟩
  rw [divideError, interrupt_of_not_shortCircuited rfl, hu.ip rfl]

/-- Settles O41. -/
theorem divideErrorsTakeVectorZero : Obligations.DivideErrorsTakeVectorZero := by
  intro s
  exact ⟨fun rm h => completes_divideError ((exec_div8 s rm).trans (if_pos h)) (.afterRead8 rm (List.Subset.refl _)),
    fun rm h => completes_divideError ((exec_div16 s rm).trans (if_pos h)) (.afterRead16 rm (List.Subset.refl _)),
    fun rm h => completes_divideError ((exec_idiv8 s rm).trans (if_pos h)) (.afterRead8 rm (List.Subset.refl _)),
    fun rm h => completes_divideError ((exec_idiv16 s rm).trans (if_pos h)) (.afterRead16 rm (List.Subset.refl _)),
    completes_divideError rfl (.refl _ s)⟩

end Sys2Proof.Machine
end

section
/-! PROOFS. The INT 13h service but for its transfers (spec/47_bios_disk_int13.md R611 to R613, R616 to R618, R627). -/

namespace Sys2Proof.Machine

/-! ## What a call leaves before its status is written -/

/-- What every INT 13h function leaves: the registers but AX, CX, DX and BX, the flags but CF, the last statuses, and
all else but the drives and memory. -/
structure CallKept (s u : State) : Prop where
  sregs : u.sregs = s.sregs
  flags : ∀ k, k ≠ .cf → flag k u = flag k s
  regs : ∀ r, r ∉ [Reg16.ax, .cx, .dx, .bx] → reg16 r u = reg16 r s
  lastAh : u.disk.lastAh = s.disk.lastAh
  lastCf : u.disk.lastCf = s.disk.lastCf
  devices : KeepsDevices (s.setDisk u.disk) u

namespace CallKept
variable {s u : State}

theorem refl (s : State) : CallKept s s := ⟨rfl, fun _ _ => rfl, fun _ _ => rfl, rfl, rfl, .refl s⟩

/-- Every byte register is a half of AX, CX, DX or BX (R31). -/
theorem setReg8 (h : CallKept s u) (k : Reg8) (v : Byte) : CallKept s (setReg8 k v u) where
  sregs := h.sregs
  flags k hk := by simpa using h.flags k hk
  regs r hr := by
    have hne : r ≠ fullReg k := by rintro rfl; cases k <;> simp [fullReg] at hr
    rw [reg16_setReg8, if_neg hne]
    exact h.regs r hr
  lastAh := h.lastAh
  lastCf := h.lastCf
  devices := { h.devices with }

theorem setCf (h : CallKept s u) (b : Bool) : CallKept s (setFlag .cf b u) where
  sregs := h.sregs
  flags k hk := by
    rw [flag_setFlag, if_neg hk]
    exact h.flags k hk
  regs r hr := by simpa using h.regs r hr
  lastAh := h.lastAh
  lastCf := h.lastCf
  devices := { h.devices with }

end CallKept

/-! ## The status written at the end (R627) -/

/-- The last statuses of drive d set to the AH and CF a call leaves. -/
def withStatus (d : Byte) (u : State) : State :=
  u.setDisk { u.disk with
    lastAh := u.disk.lastAh.set 0#8 d.toNat (reg8 .ah u)
    lastCf := u.disk.lastCf.set false d.toNat u.flags.CF }

theorem int13_eq (s : State) :
    int13 s = mirrored (reg8 .dl s) (reg8 .ah (int13Dispatch s)) (withStatus (reg8 .dl s) (int13Dispatch s)) := rfl

/-- The state a served call leaves, u being the one its function leaves. -/
def afterCall (s u : State) : State := served s.ip (mirrored (reg8 .dl s) (reg8 .ah u) (withStatus (reg8 .dl s) u))

/-- R762. -/
theorem exec_int13 {s : State} (h : s.params.int13ShortCircuit = true) :
    exec (.int 0x13#8) s = .next (afterCall s (int13Dispatch s)) := by
  show interrupt 0x13#8 s.ip s = _
  simp [interrupt, h, int13_eq, afterCall]

/-- The mirror is one byte of memory. -/
theorem frame_mirrored (d ah : Byte) (u : State) : Frame { mem := [0x00474#20] } u (mirrored d ah u) := by
  unfold mirrored
  split
  · exact (Frame.refl _ u).write8 List.mem_cons_self ah
  · exact .refl _ u

theorem MemEq.mirrored {u v : State} (h : MemEq u v) (d ah : Byte) : MemEq (mirrored d ah u) (mirrored d ah v) := by
  unfold Machine.mirrored
  split
  · exact h.write8 _ _
  · exact h

@[simp] theorem mirrored_sregs (d ah : Byte) (u : State) : (mirrored d ah u).sregs = u.sregs := by
  unfold mirrored; split <;> simp

section
variable {s u : State}

theorem frame_afterCall (s u : State) :
    Frame { mem := [0x00474#20], ip := true, run := true } (withStatus (reg8 .dl s) u) (afterCall s u) :=
  (((frame_mirrored _ _ _).mono (w' := { mem := [0x00474#20], ip := true, run := true }) (List.Subset.refl _)
    (List.Subset.refl _) (List.Subset.refl _) (List.Subset.refl _) (List.Subset.refl _) (List.Subset.refl _) nofun
    nofun).setIp rfl _).setRun rfl _

@[simp] theorem reg16_afterCall (r : Reg16) (s u : State) : reg16 r (afterCall s u) = reg16 r u :=
  (frame_afterCall s u).regs r List.not_mem_nil nofun

@[simp] theorem reg8_afterCall (b : Reg8) (s u : State) : reg8 b (afterCall s u) = reg8 b u :=
  (frame_afterCall s u).halves b List.not_mem_nil List.not_mem_nil

@[simp] theorem flag_afterCall (k : Flag) (s u : State) : flag k (afterCall s u) = flag k u :=
  (frame_afterCall s u).flags k List.not_mem_nil

theorem afterCall_disk (s u : State) : (afterCall s u).disk = (withStatus (reg8 .dl s) u).disk :=
  (frame_afterCall s u).devices.disk

@[simp] theorem afterCall_drive (s u : State) : (afterCall s u).disk.drive = u.disk.drive :=
  congrArg (·.drive) (afterCall_disk s u)

/-- The call's memory, u's memory being that of v. -/
theorem sameMemory_afterCall {v : State} (h : MemEq v u) :
    SameMemory (afterCall s u) (mirrored (reg8 .dl s) (reg8 .ah (afterCall s u)) v) := by
  rw [reg8_afterCall]
  have hstatus : MemEq v (withStatus (reg8 .dl s) u) := ⟨h.ram, h.video, h.readonly⟩
  exact (((hstatus.mirrored _ _).setIp s.ip).setRun .running).same

/-- R611, R627: what every served call leaves. -/
theorem CallKept.diskServed (h : CallKept s u) : DiskServed s (afterCall s u) where
  ip := rfl
  run := rfl
  sregs := (mirrored_sregs ..).trans h.sregs
  flags k hk := (flag_afterCall k s u).trans (h.flags k hk)
  regs r hr := (reg16_afterCall r s u).trans (h.regs r hr)
  lastAh n := by
    rw [afterCall_disk, reg8_afterCall, withStatus, State.setDisk_disk, Table.get_set, h.lastAh]
    simp only [BitVec.toNat_inj]
  lastCf n := by
    rw [afterCall_disk, flag_afterCall, withStatus, State.setDisk_disk, Table.get_set, h.lastCf]
    simp only [BitVec.toNat_inj]
    rfl
  devices := by
    have hf := (frame_afterCall s u).devices
    have hk := h.devices
    exact
      { pic := hf.pic.trans hk.pic
        disk := rfl
        video := hf.video.trans hk.video
        shadow := hf.shadow.trans hk.shadow
        readonly := hf.readonly.trans hk.readonly
        hostRunning := hf.hostRunning.trans hk.hostRunning
        hardReset := hf.hardReset.trans hk.hardReset
        bootDrive := hf.bootDrive.trans hk.bootDrive
        batch := hf.batch.trans hk.batch
        events := hf.events.trans hk.events
        params := hf.params.trans hk.params
        segOverride := hf.segOverride.trans hk.segOverride
        rep := hf.rep.trans hk.rep
        instrIP := hf.instrIP.trans hk.instrIP }

end

/-! ## The functions by AH (R611) -/

section
variable {s : State}

theorem int13Dispatch_success (h : reg8 .ah s ∈ [0x00#8, 0x04#8, 0x05#8]) : int13Dispatch s = int13Success s := by
  simp only [List.mem_cons, List.not_mem_nil, or_false] at h
  rcases h with h | h | h <;> simp [int13Dispatch, h]

theorem int13Dispatch_lastStatus (h : reg8 .ah s = 0x01#8) : int13Dispatch s = int13LastStatus s := by
  simp [int13Dispatch, h]

theorem int13Dispatch_params (h : reg8 .ah s = 0x08#8) : int13Dispatch s = int13Params s := by
  simp [int13Dispatch, h]

theorem int13Dispatch_read (h : reg8 .ah s = 0x02#8) : int13Dispatch s = int13Read s := by simp [int13Dispatch, h]

theorem int13Dispatch_write (h : reg8 .ah s = 0x03#8) : int13Dispatch s = int13Write s := by simp [int13Dispatch, h]

theorem int13Dispatch_unsupported (h : reg8 .ah s ∉ [0x02#8, 0x03#8])
    (h' : reg8 .ah s ∉ [0x00#8, 0x01#8, 0x04#8, 0x05#8, 0x08#8]) : int13Dispatch s = int13Unsupported s := by
  have hne {x : Byte} (hx : x ∈ [0x00#8, 0x01#8, 0x04#8, 0x05#8, 0x08#8] ∨ x ∈ [0x02#8, 0x03#8]) :
      (reg8 .ah s).toNat ≠ x.toNat := by
    intro he
    rw [BitVec.eq_of_toNat_eq he] at h h'
    exact hx.elim h' h
  unfold int13Dispatch
  split
  case h_1 he => exact absurd he (hne (x := 0x00#8) (by decide))
  case h_2 he => exact absurd he (hne (x := 0x04#8) (by decide))
  case h_3 he => exact absurd he (hne (x := 0x05#8) (by decide))
  case h_4 he => exact absurd he (hne (x := 0x01#8) (by decide))
  case h_5 he => exact absurd he (hne (x := 0x02#8) (by decide))
  case h_6 he => exact absurd he (hne (x := 0x03#8) (by decide))
  case h_7 he => exact absurd he (hne (x := 0x08#8) (by decide))
  case h_8 => rfl

/-! ## The drive's parameters (R617) -/

/-- The registers AH = 08 answers in, and success. -/
def withParams (d : Byte) (drive : Drive) (hd : Nat) (s : State) : State :=
  let s := setReg8 .ch (BitVec.ofNat 8 drive.cyls - 1) s
  let s := setReg8 .cl (BitVec.ofNat 8 drive.sects ||| (BitVec.ofNat 8 (drive.cyls / 256) <<< 6)) s
  let s := setReg8 .dh (BitVec.ofNat 8 drive.heads - 1) s
  int13Success (if 0x80#8 ≤ d then setReg8 .dl (BitVec.ofNat 8 hd) s else setReg8 .bl 4#8 (setReg8 .dl 2#8 s))

theorem int13Params_of_empty (h : (s.disk.at (reg8 .dl s)).inserted = false) :
    int13Params s = setFlag .cf true (setReg8 .ah 0xAA#8 s) := by simp [int13Params, h]

theorem int13Params_of_inserted (h : (s.disk.at (reg8 .dl s)).inserted = true) :
    int13Params s = withParams (reg8 .dl s) (s.disk.at (reg8 .dl s)) s.disk.hdcount s := by
  simp [int13Params, h, withParams]

/-- The functions that move no sector set CF, perhaps with AH, or answer parameters. -/
theorem int13Dispatch_cases (h : reg8 .ah s ∉ [0x02#8, 0x03#8]) :
    (∃ b v, int13Dispatch s = setFlag .cf b (setReg8 .ah v s)) ∨ (∃ b, int13Dispatch s = setFlag .cf b s) ∨
      reg8 .ah s = 0x08#8 ∧ (s.disk.at (reg8 .dl s)).inserted = true ∧
        int13Dispatch s = withParams (reg8 .dl s) (s.disk.at (reg8 .dl s)) s.disk.hdcount s := by
  by_cases hlisted : reg8 .ah s ∈ [0x00#8, 0x01#8, 0x04#8, 0x05#8, 0x08#8]
  · have hcases : reg8 .ah s ∈ [0x00#8, 0x04#8, 0x05#8] ∨ reg8 .ah s = 0x01#8 ∨ reg8 .ah s = 0x08#8 := by
      simp only [List.mem_cons, List.not_mem_nil, or_false] at hlisted ⊢
      tauto
    obtain hs | hs | hs := hcases
    · exact .inl ⟨_, _, int13Dispatch_success hs⟩
    · exact .inl ⟨_, _, int13Dispatch_lastStatus hs⟩
    · cases hi : (s.disk.at (reg8 .dl s)).inserted
      · exact .inl ⟨_, _, (int13Dispatch_params hs).trans (int13Params_of_empty hi)⟩
      · exact .inr (.inr ⟨hs, rfl, (int13Dispatch_params hs).trans (int13Params_of_inserted hi)⟩)
  · exact .inr (.inl ⟨_, int13Dispatch_unsupported h hlisted⟩)

/-- What the functions that move no sector leave. -/
structure StatusKept (s u : State) : Prop where
  call : CallKept s u
  mem : MemEq s u
  disk : u.disk = s.disk

namespace StatusKept
variable {u : State}

theorem refl (s : State) : StatusKept s s := ⟨.refl s, .refl s, rfl⟩
theorem setReg8 (h : StatusKept s u) (k : Reg8) (v : Byte) : StatusKept s (setReg8 k v u) :=
  ⟨h.call.setReg8 k v, h.mem.setReg8 k v, h.disk⟩
theorem setCf (h : StatusKept s u) (b : Bool) : StatusKept s (setFlag .cf b u) :=
  ⟨h.call.setCf b, h.mem.setFlag _ b, h.disk⟩
theorem success (h : StatusKept s u) : StatusKept s (int13Success u) := (h.setReg8 _ _).setCf _

theorem withParams (d : Byte) (drive : Drive) (hd : Nat) (h : StatusKept s u) :
    StatusKept s (withParams d drive hd u) := by
  have h3 := ((h.setReg8 .ch (BitVec.ofNat 8 drive.cyls - 1)).setReg8 .cl
    (BitVec.ofNat 8 drive.sects ||| (BitVec.ofNat 8 (drive.cyls / 256) <<< 6))).setReg8 .dh (BitVec.ofNat 8 drive.heads - 1)
  refine StatusKept.success ?_
  split
  · exact h3.setReg8 _ _
  · exact (h3.setReg8 _ _).setReg8 _ _

theorem dispatch (h : reg8 .ah s ∉ [0x02#8, 0x03#8]) : StatusKept s (int13Dispatch s) := by
  obtain ⟨b, v, he⟩ | ⟨b, he⟩ | ⟨-, -, he⟩ := int13Dispatch_cases h <;> rw [he]
  · exact ((refl s).setReg8 _ _).setCf _
  · exact (refl s).setCf _
  · exact (refl s).withParams _ _ _

end StatusKept

/-- The count of hard disks, by drive number (R605). -/
theorem Disk.hdcount_eq (k : Disk) :
    k.hdcount = ((List.range 256).filter fun i => 0x80 ≤ i && (k.at (BitVec.ofNat 8 i)).inserted).length := by
  refine congrArg List.length (List.filter_congr fun i hi => ?_)
  have hlt : i < 256 := List.mem_range.1 hi
  rw [Disk.at, BitVec.toNat_ofNat, Nat.mod_eq_of_lt hlt]

/-- A byte of n - 1, for a positive n (logs 22, 28). -/
theorem toNat_ofNat_sub_one {n : Nat} (h : 1 ≤ n) : (BitVec.ofNat 8 n - 1).toNat = (n - 1) % 256 := by
  rw [BitVec.toNat_sub, BitVec.toNat_ofNat]
  simp only [BitVec.ofNat_eq_ofNat, BitVec.toNat_ofNat]
  omega

/-- Sectors and the high bits of cylinders in one byte. -/
theorem ofNat_or_shiftLeft (m n : Nat) :
    BitVec.ofNat 8 m ||| (BitVec.ofNat 8 n <<< 6) = BitVec.ofNat 8 (m ||| n * 64) := by
  refine BitVec.eq_of_getLsbD_eq fun k hk => ?_
  simp only [BitVec.getLsbD_or, BitVec.getLsbD_shiftLeft, BitVec.getLsbD_ofNat, Nat.testBit_or, hk, decide_true,
    Bool.true_and]
  rw [show n * 64 = 2 ^ 6 * n by omega, Nat.testBit_two_pow_mul]
  by_cases h6 : k < 6
  · simp [h6]
  · have : k - 6 < 8 := by omega
    simp [h6, this, Nat.le_of_not_lt h6]

/-- The registers AH = 08 answers in. -/
structure ParamsAnswered (d : Byte) (drive : Drive) (hd : Nat) (s u : State) : Prop where
  ah : reg8 .ah u = 0
  cf : flag .cf u = false
  al : reg8 .al u = reg8 .al s
  bh : reg8 .bh u = reg8 .bh s
  ch : reg8 .ch u = BitVec.ofNat 8 drive.cyls - 1
  cl : reg8 .cl u = BitVec.ofNat 8 drive.sects ||| (BitVec.ofNat 8 (drive.cyls / 256) <<< 6)
  dh : reg8 .dh u = BitVec.ofNat 8 drive.heads - 1
  hard : 0x80#8 ≤ d → reg8 .dl u = BitVec.ofNat 8 hd ∧ reg8 .bl u = reg8 .bl s
  floppy : ¬ 0x80#8 ≤ d → reg8 .dl u = 2 ∧ reg8 .bl u = 4

theorem paramsAnswered_withParams (d : Byte) (drive : Drive) (hd : Nat) (s : State) :
    ParamsAnswered d drive hd s (withParams d drive hd s) := by
  unfold withParams int13Success
  constructor
  all_goals by_cases h : 0x80#8 ≤ d
  all_goals simp [h, reg8_setReg8]

end

/-- Settles O58: the function by AH, then the status and its mirror. -/
theorem diskStatusCalls : Obligations.DiskStatusCalls := by
  intro s hshort d drive hah
  have hkept := StatusKept.dispatch hah
  refine ⟨_, exec_int13 hshort, hkept.call.diskServed, ?drive, sameMemory_afterCall hkept.mem, fun h => ?success,
    fun h => ?lastStatus, fun h hi => ?empty, fun h hi => ?params, fun h => ?unsupported, ?registers⟩
  case drive => rw [afterCall_drive, hkept.disk]
  all_goals simp only [reg8_afterCall, flag_afterCall, reg16_afterCall]
  case success => rw [int13Dispatch_success h]; simp [int13Success, reg8_setReg8]
  case lastStatus => rw [int13Dispatch_lastStatus h]; simp [int13LastStatus, reg8_setReg8, d]
  case empty => rw [int13Dispatch_params h, int13Params_of_empty hi]; simp
  case params =>
    have hp := paramsAnswered_withParams d drive s.disk.hdcount s
    rw [int13Dispatch_params h, int13Params_of_inserted hi]
    refine ⟨hp.ah, hp.cf, hp.al, hp.bh, fun hc => ?_, ?_, fun hc => ?_, fun hd => ?_, fun hd => hp.floppy (Nat.not_le.2 hd)⟩
    · exact (congrArg BitVec.toNat hp.ch).trans (toNat_ofNat_sub_one hc)
    · exact hp.cl.trans (ofNat_or_shiftLeft _ _)
    · exact (congrArg BitVec.toNat hp.dh).trans (toNat_ofNat_sub_one hc)
    · obtain ⟨hdl, hbl⟩ := hp.hard hd
      exact ⟨(congrArg BitVec.toNat hdl).trans (by rw [BitVec.toNat_ofNat, Disk.hdcount_eq]), hbl⟩
  case unsupported => rw [int13Dispatch_unsupported hah h]; simp [int13Unsupported]
  case registers =>
    obtain ⟨b, v, he⟩ | ⟨b, he⟩ | ⟨h8, hi, -⟩ := int13Dispatch_cases hah
    · rw [he]
      exact .inr (by simp [reg8_setReg8, reg16_setReg8, fullReg])
    · rw [he]
      exact .inr (by simp)
    · exact .inl ⟨h8, hi⟩

end Sys2Proof.Machine
end

section
/-! PROOFS. INT 13h reads and writes (spec/47_bios_disk_int13.md R606 to R610, R614, R615, R628). -/

namespace Sys2Proof.Machine

/-! ## Bytes written one after another -/

section
variable {s u : State}

@[simp] theorem writeBytes_regs (bytes : List Byte) (a : Linear) (s : State) : (writeBytes bytes a s).regs = s.regs := by
  induction bytes generalizing a s with
  | nil => rfl
  | cons b bytes ih => exact (ih _ _).trans (write8_regs s a b)

@[simp] theorem writeBytes_disk (bytes : List Byte) (a : Linear) (s : State) : (writeBytes bytes a s).disk = s.disk := by
  induction bytes generalizing a s with
  | nil => rfl
  | cons b bytes ih => exact (ih _ _).trans (write8_disk s a b)

@[simp] theorem writeBytes_params (bytes : List Byte) (a : Linear) (s : State) :
    (writeBytes bytes a s).params = s.params := by
  induction bytes generalizing a s with
  | nil => rfl
  | cons b bytes ih => exact (ih _ _).trans (write8_params s a b)

theorem write8_setDraws (a : Linear) (v : Byte) (k : Nat) (s : State) :
    write8 a v (s.setDraws k) = (write8 a v s).setDraws k := by
  unfold write8
  rw [isReadonly_congr a (State.setDraws_readonly s k)]
  split
  · rfl
  · split <;> rfl

theorem writeBytes_setDraws (bytes : List Byte) (a : Linear) (k : Nat) (s : State) :
    writeBytes bytes a (s.setDraws k) = (writeBytes bytes a s).setDraws k := by
  induction bytes generalizing a s with
  | nil => rfl
  | cons b bytes ih => rw [writeBytes, write8_setDraws, ih]; rfl

theorem writeBytes_append (bytes more : List Byte) (a : Linear) (s : State) :
    writeBytes (bytes ++ more) a s = writeBytes more (a + BitVec.ofNat 20 bytes.length) (writeBytes bytes a s) := by
  induction bytes generalizing a s with
  | nil => simp [writeBytes]
  | cons b bytes ih =>
    have hlen : a + BitVec.ofNat 20 (b :: bytes).length = a + 1 + BitVec.ofNat 20 bytes.length := by
      rw [List.length_cons, Nat.add_comm, BitVec.ofNat_add, add_assoc]
      rfl
    rw [hlen]
    exact ih _ _

theorem CallKept.write8 (h : CallKept s u) (a : Linear) (v : Byte) : CallKept s (write8 a v u) where
  sregs := (write8_sregs u a v).trans h.sregs
  flags k hk := by simpa using h.flags k hk
  regs r hr := by simpa using h.regs r hr
  lastAh := by simpa using h.lastAh
  lastCf := by simpa using h.lastCf
  devices := by
    rw [write8_disk]
    exact h.devices.trans (by constructor <;> simp)

theorem CallKept.writeBytes (h : CallKept s u) (bytes : List Byte) (a : Linear) : CallKept s (writeBytes bytes a u) := by
  induction bytes generalizing a u with
  | nil => exact h
  | cons b bytes ih => exact ih (h.write8 a b) _

theorem CallKept.setDraws (h : CallKept s u) (k : Nat) : CallKept s (u.setDraws k) :=
  ⟨h.sregs, h.flags, h.regs, h.lastAh, h.lastCf, { h.devices with }⟩

end

/-! ## A drive's bytes -/

/-- The bytes of a drive from an offset on. -/
def fileBytes (v : Drive) (o n : Nat) : List Byte := (List.range n).map fun j => v.backing.get 0#8 (o + j)

theorem fileBytes_append (v : Drive) (o m n : Nat) : fileBytes v o (m + n) = fileBytes v o m ++ fileBytes v (o + m) n := by
  simp [fileBytes, List.range_add, add_assoc]

theorem get_backingWrite (bytes : List Byte) (o x : Nat) (t : Table Byte) : (backingWrite bytes o t).get 0#8 x =
    if o ≤ x ∧ x < o + bytes.length then bytes.getD (x - o) 0 else t.get 0#8 x := by
  induction bytes generalizing o t with
  | nil => simp [backingWrite]
  | cons b bytes ih =>
    rw [backingWrite, ih, Table.get_set, List.length_cons]
    by_cases hx : x = o
    · subst hx; simp
    · by_cases hin : o + 1 ≤ x ∧ x < o + 1 + bytes.length
      · have hsub : x - o = (x - (o + 1)) + 1 := by omega
        rw [if_pos hin, if_pos (by omega), hsub, List.getD_cons_succ]
      · rw [if_neg hin, if_neg hx, if_neg (by omega)]

/-! ## Memory read into a sector -/

/-- A read loads the latch at most. -/
theorem touch8_eq_setLatch (a : Linear) (s : State) : ∃ l, touch8 a s = s.setVideo { s.video with latch := l } := by
  unfold touch8
  split
  · exact ⟨_, rfl⟩
  · exact ⟨s.video.latch, rfl⟩

theorem readBytes_eq (n : Nat) (a : Linear) (s : State) : ∃ l, readBytes n a s =
    ((List.range n).map fun j => peek8 (a + BitVec.ofNat 20 j) s, s.setVideo { s.video with latch := l }) := by
  induction n generalizing a s with
  | zero => exact ⟨s.video.latch, rfl⟩
  | succ n ih =>
    obtain ⟨l, hl⟩ := touch8_eq_setLatch a s
    obtain ⟨l', hl'⟩ := ih (a + 1) (touch8 a s)
    refine ⟨l', ?_⟩
    have haddr (j : Nat) : a + 1 + BitVec.ofNat 20 j = a + BitVec.ofNat 20 (j + 1) := by
      rw [Nat.add_comm j, BitVec.ofNat_add, add_assoc]
      rfl
    simp only [readBytes, read8_eq, hl', List.range_succ_eq_map, List.map_cons, List.map_map, haddr, peek8_touch8]
    rw [hl]
    simp [Function.comp_def]

/-- A state but for its latch, its disks and the count of its draws. -/
def withDisk (l : BitVec 32) (k : Disk) (n : Nat) (s : State) : State :=
  ((s.setVideo { s.video with latch := l }).setDisk k).setDraws n

theorem storeSector_withDisk (l : BitVec 32) (k : Disk) (q : Nat) (d : Byte) (o : Nat) (bytes : List Byte) (s : State) :
    storeSector d o bytes (withDisk l k q s) =
      withDisk l (k.setAt d { k.at d with backing := backingWrite bytes o (k.at d).backing }) q s := rfl

theorem withDisk_withDisk (l l' : BitVec 32) (k k' : Disk) (q q' : Nat) (s : State) :
    withDisk l' k' q' (withDisk l k q s) = withDisk l' k' q' s := by
  unfold withDisk State.setVideo State.setDisk State.setDraws
  rfl

theorem withDisk_params (l : BitVec 32) (k : Disk) (q : Nat) (s : State) : (withDisk l k q s).params = s.params := rfl

theorem length_drawBytes (n : Nat) (s : State) : (drawBytes n s).1.length = n := by simp [drawBytes]

theorem drawBytes_withDisk (n : Nat) (l : BitVec 32) (k : Disk) (q : Nat) (s : State) :
    (drawBytes n (withDisk l k q s)).2 = withDisk l k (q + n) s := rfl

theorem drawBytes_params (n : Nat) (s : State) : (drawBytes n s).2.params = s.params := rfl

/-! ## How far a transfer goes (R609, R610) -/

/-- Only a raw device may fail. -/
theorem hostFail_eq (raw : Bool) (s : State) : ∃ b k, hostFail raw s = (b, s.setDraws k) ∧ (b = true → raw = true) := by
  cases raw
  · exact ⟨false, s.draws, rfl, nofun⟩
  · exact ⟨_, _, rfl, fun _ => rfl⟩

/-- How many of n sectors a transfer moves from sector i on: each fits in the drive, and without a failure of a raw
device the first that does not fit ends it. -/
structure MovedCount (t : Transfer) (v : Drive) (n i m : Nat) : Prop where
  le : m ≤ n
  fits : 0 < m → t.off + 512 * (i + m) ≤ v.size
  ends : v.raw = false → m = n ∨ v.size < t.off + 512 * (i + m + 1)

namespace MovedCount
variable {t : Transfer} {v w : Drive} {n i m : Nat}

theorem zero (t : Transfer) (v : Drive) (n i : Nat) (h : v.raw = false → 0 = n ∨ v.size < t.off + 512 * (i + 1)) :
    MovedCount t v n i 0 := ⟨Nat.zero_le n, nofun, h⟩

/-- A sector that fits, before m more. -/
theorem succ (h : MovedCount t v n (i + 1) m) (hfit : t.off + 512 * (i + 1) ≤ v.size) :
    MovedCount t v (n + 1) i (m + 1) := by
  have hnext : i + (m + 1) = i + 1 + m := by omega
  refine ⟨Nat.succ_le_succ h.le, fun _ => ?_, fun hr => (h.ends hr).imp (congrArg (· + 1)) fun he => hnext ▸ he⟩
  rw [hnext]
  obtain rfl | hm := Nat.eq_zero_or_pos m
  · exact hfit
  · exact h.fits hm

/-- Only size and kind of the drive count. -/
theorem congr (h : MovedCount t v n i m) (hs : w.size = v.size) (hr : w.raw = v.raw) : MovedCount t w n i m :=
  ⟨h.le, fun hm => hs ▸ h.fits hm, fun hw => hs ▸ h.ends (hr ▸ hw)⟩

end MovedCount

section
variable {t : Transfer} {n i : Nat} {s u : State}

theorem next_sector (o i : Nat) : o + 512 * (i + 1) = o + 512 * i + 512 := by rw [Nat.mul_succ, Nat.add_assoc]

/-! ## The loop of a read (R609) -/

theorem readSectors_succ (t : Transfer) (n i : Nat) (s : State) : readSectors t (n + 1) i s =
    if (s.disk.at t.drive).size < t.off + 512 * i + 512 then (⟨i, some s.params.diskErrRead⟩, s)
    else if (hostFail (s.disk.at t.drive).raw s).1 then
      (⟨i, some (hostFail (s.disk.at t.drive).raw s).2.params.diskErrRead⟩, (hostFail (s.disk.at t.drive).raw s).2)
    else readSectors t n (i + 1) (writeBytes (fileBytes (s.disk.at t.drive) (t.off + 512 * i) 512)
      (t.buf + BitVec.ofNat 20 (512 * i)) (hostFail (s.disk.at t.drive).raw s).2) := rfl

theorem readSectors_past_end (h : (s.disk.at t.drive).size < t.off + 512 * (i + 1)) :
    readSectors t (n + 1) i s = (⟨i, some s.params.diskErrRead⟩, s) := if_pos (next_sector t.off i ▸ h)

theorem readSectors_fits (h : t.off + 512 * (i + 1) ≤ (s.disk.at t.drive).size) {b : Bool}
    (hf : hostFail (s.disk.at t.drive).raw s = (b, u)) : readSectors t (n + 1) i s =
      if b then (⟨i, some u.params.diskErrRead⟩, u)
      else readSectors t n (i + 1)
        (writeBytes (fileBytes (s.disk.at t.drive) (t.off + 512 * i) 512) (t.buf + BitVec.ofNat 20 (512 * i)) u) := by
  rw [readSectors_succ, if_neg (Nat.not_lt.2 (next_sector t.off i ▸ h)), hf]

/-- R609: m sectors go to memory, one after another. -/
theorem readSectors_eq (t : Transfer) (n i : Nat) (s : State) : ∃ m k, MovedCount t (s.disk.at t.drive) n i m ∧
    readSectors t n i s = (⟨i + m, if m = n then none else some s.params.diskErrRead⟩,
      (writeBytes (fileBytes (s.disk.at t.drive) (t.off + 512 * i) (512 * m)) (t.buf + BitVec.ofNat 20 (512 * i)) s).setDraws k) := by
  induction n generalizing i s with
  | zero => exact ⟨0, s.draws, .zero _ _ _ _ fun _ => .inl rfl, rfl⟩
  | succ n ih =>
    by_cases hsize : (s.disk.at t.drive).size < t.off + 512 * (i + 1)
    · exact ⟨0, s.draws, .zero _ _ _ _ fun _ => .inr hsize, readSectors_past_end hsize⟩
    · have hfit := Nat.not_lt.1 hsize
      obtain ⟨b, k, hfail, hraw⟩ := hostFail_eq (s.disk.at t.drive).raw s
      rw [readSectors_fits hfit hfail]
      cases b
      case true => exact ⟨0, k, .zero _ _ _ _ fun h => absurd (hraw rfl) (ne_true_of_eq_false h), rfl⟩
      case false =>
        obtain ⟨m, k', hm, he⟩ := ih (i + 1) (writeBytes (fileBytes (s.disk.at t.drive) (t.off + 512 * i) 512)
          (t.buf + BitVec.ofNat 20 (512 * i)) (s.setDraws k))
        simp only [writeBytes_disk, writeBytes_params, State.setDraws_disk, State.setDraws_params] at hm he
        refine ⟨m + 1, k', hm.succ hfit, ?_⟩
        rw [if_neg Bool.false_ne_true, he]
        have hcount : i + 1 + m = i + (m + 1) := by omega
        have hbytes : 512 * (m + 1) = 512 + 512 * m := by rw [Nat.mul_succ, Nat.add_comm]
        have hlen : (fileBytes (s.disk.at t.drive) (t.off + 512 * i) 512).length = 512 := by simp [fileBytes]
        have hbuf : t.buf + BitVec.ofNat 20 (512 * i) + BitVec.ofNat 20 512 = t.buf + BitVec.ofNat 20 (512 * (i + 1)) := by
          rw [Nat.mul_succ, BitVec.ofNat_add, add_assoc]
        rw [hcount, hbytes, fileBytes_append, writeBytes_append, hlen, hbuf, ← next_sector, writeBytes_setDraws,
          writeBytes_setDraws]
        simp

/-! ## The loop of a write (R610) -/

theorem writeSectors_succ (t : Transfer) (n i : Nat) (s : State) : writeSectors t (n + 1) i s =
    let r := readBytes 512 (t.buf + BitVec.ofNat 20 (512 * i)) s
    if (s.disk.at t.drive).size < t.off + 512 * i + 512 then (⟨i, some r.2.params.diskErrWrite⟩, r.2)
    else
      let f := hostFail (s.disk.at t.drive).raw r.2
      if f.1 then (⟨i, some f.2.params.diskErrWrite⟩,
        storeSector t.drive (t.off + 512 * i) (drawBytes 512 f.2).1 (drawBytes 512 f.2).2)
      else writeSectors t n (i + 1) (storeSector t.drive (t.off + 512 * i) r.1 f.2) := by
  simp only [writeSectors, sectorSize, drawBytes_params]
  rfl

theorem writeSectors_past_end (h : (s.disk.at t.drive).size < t.off + 512 * (i + 1)) {bytes : List Byte}
    (hr : readBytes 512 (t.buf + BitVec.ofNat 20 (512 * i)) s = (bytes, u)) :
    writeSectors t (n + 1) i s = (⟨i, some u.params.diskErrWrite⟩, u) := by
  rw [writeSectors_succ, hr]
  exact if_pos (next_sector t.off i ▸ h)

theorem writeSectors_fits {v : State} (h : t.off + 512 * (i + 1) ≤ (s.disk.at t.drive).size) {bytes : List Byte} {b : Bool}
    (hr : readBytes 512 (t.buf + BitVec.ofNat 20 (512 * i)) s = (bytes, u))
    (hf : hostFail (s.disk.at t.drive).raw u = (b, v)) : writeSectors t (n + 1) i s =
      if b then (⟨i, some v.params.diskErrWrite⟩,
        storeSector t.drive (t.off + 512 * i) (drawBytes 512 v).1 (drawBytes 512 v).2)
      else writeSectors t n (i + 1) (storeSector t.drive (t.off + 512 * i) bytes v) := by
  rw [writeSectors_succ, hr, if_neg (Nat.not_lt.2 (next_sector t.off i ▸ h)), hf]

end

/-- The disks after m of n sectors from sector i on are written: the drive holds memory's bytes there, and of a raw
device that failed the sector after them is free. -/
structure ImageWritten (t : Transfer) (n i m : Nat) (s : State) (k : Disk) : Prop where
  lastAh : k.lastAh = s.disk.lastAh
  lastCf : k.lastCf = s.disk.lastCf
  others : ∀ d, d ≠ t.drive → k.at d = s.disk.at d
  drive : { k.at t.drive with backing := (s.disk.at t.drive).backing } = s.disk.at t.drive
  bytes : ∀ o, (k.at t.drive).backing.get 0#8 o =
      (if t.off + 512 * i ≤ o ∧ o < t.off + 512 * (i + m) then peek8 (t.buf + BitVec.ofNat 20 (o - t.off)) s
       else (s.disk.at t.drive).backing.get 0#8 o) ∨
    (s.disk.at t.drive).raw = true ∧ m < n ∧ t.off + 512 * (i + m + 1) ≤ (s.disk.at t.drive).size ∧
      t.off + 512 * (i + m) ≤ o ∧ o < t.off + 512 * (i + m + 1)

/-- The disks with a sector of drive d stored. -/
def Disk.withSector (k : Disk) (d : Byte) (o : Nat) (bytes : List Byte) : Disk :=
  k.setAt d { k.at d with backing := backingWrite bytes o (k.at d).backing }

theorem Disk.get_withSector (k : Disk) (d : Byte) (o x : Nat) (bytes : List Byte) :
    ((k.withSector d o bytes).at d).backing.get 0#8 x =
      if o ≤ x ∧ x < o + bytes.length then bytes.getD (x - o) 0 else (k.at d).backing.get 0#8 x := by
  rw [Disk.withSector, Disk.at_setAt_same]
  exact get_backingWrite bytes o x _

namespace ImageWritten
variable {t : Transfer} {n i m : Nat} {s : State}

/-- No sector written. -/
theorem refl (t : Transfer) (n i : Nat) (s : State) : ImageWritten t n i 0 s s.disk where
  lastAh := rfl
  lastCf := rfl
  others _ _ := rfl
  drive := rfl
  bytes _ := .inl (if_neg fun ⟨hlo, hhi⟩ => Nat.not_lt.2 hlo hhi).symm

/-- A failed sector of a raw device, which is then free. -/
theorem failed {junk : List Byte} (hj : junk.length = 512) (hraw : (s.disk.at t.drive).raw = true)
    (hfit : t.off + 512 * (i + 1) ≤ (s.disk.at t.drive).size) :
    ImageWritten t (n + 1) i 0 s (s.disk.withSector t.drive (t.off + 512 * i) junk) where
  lastAh := rfl
  lastCf := rfl
  others _ hd := Disk.at_setAt_other _ _ hd
  drive := by rw [Disk.withSector, Disk.at_setAt_same]
  bytes o := by
    by_cases ho : t.off + 512 * i ≤ o ∧ o < t.off + 512 * (i + 1)
    · exact .inr ⟨hraw, Nat.succ_pos n, hfit, ho⟩
    · refine .inl ?_
      rw [Disk.get_withSector, hj, ← next_sector, if_neg ho,
        if_neg fun ⟨hlo, hhi⟩ => Nat.not_lt.2 hlo hhi]

/-- The bytes of memory that sector i takes. -/
def sectorBytes (t : Transfer) (i : Nat) (s : State) : List Byte :=
  (List.range 512).map fun j => peek8 (t.buf + BitVec.ofNat 20 (512 * i) + BitVec.ofNat 20 j) s

theorem sectorBytes_length : (sectorBytes t i s).length = 512 := by simp [sectorBytes]

theorem getD_sectorBytes {o : Nat} (hlo : t.off + 512 * i ≤ o) (hhi : o < t.off + 512 * (i + 1)) :
    (sectorBytes t i s).getD (o - (t.off + 512 * i)) 0 = peek8 (t.buf + BitVec.ofNat 20 (o - t.off)) s := by
  have hlt : o - (t.off + 512 * i) < 512 := by
    rw [next_sector] at hhi
    exact Nat.sub_lt_left_of_lt_add hlo hhi
  have hsum : 512 * i + (o - (t.off + 512 * i)) = o - t.off := by
    rw [Nat.sub_add_eq, Nat.add_sub_cancel' (Nat.le_sub_of_add_le' hlo)]
  simp only [sectorBytes, List.getD_eq_getElem?_getD, List.getElem?_map, List.getElem?_range hlt, Option.map_some,
    Option.getD_some]
  rw [add_assoc, ← BitVec.ofNat_add, hsum]

/-- A sector stored, before m more. -/
theorem succ {l : BitVec 32} {q : Nat} {k : Disk}
    (h : ImageWritten t n (i + 1) m (withDisk l (s.disk.withSector t.drive (t.off + 512 * i) (sectorBytes t i s)) q s) k) :
    ImageWritten t (n + 1) i (m + 1) s k := by
  obtain ⟨hah, hcf, hothers, hdrive, hbytes⟩ := h
  have hnext : i + (m + 1) = i + 1 + m := by omega
  have hat : (s.disk.withSector t.drive (t.off + 512 * i) (sectorBytes t i s)).at t.drive =
    { s.disk.at t.drive with
      backing := backingWrite (sectorBytes t i s) (t.off + 512 * i) (s.disk.at t.drive).backing } := Disk.at_setAt_same ..
  refine ⟨hah, hcf, fun d hd => (hothers d hd).trans (Disk.at_setAt_other _ _ hd), ?_, fun o => ?_⟩
  · have hd := congrArg (fun v : Drive => { v with backing := (s.disk.at t.drive).backing }) (hdrive.trans hat)
    exact hd
  · rw [hnext]
    refine (hbytes o).imp (fun hb => hb.trans ?_) fun ⟨hraw, hlt, hfit, hrange⟩ => ?_
    · have hget := s.disk.get_withSector t.drive (t.off + 512 * i) o (sectorBytes t i s)
      rw [sectorBytes_length, ← next_sector] at hget
      have hle : t.off + 512 * i ≤ t.off + 512 * (i + 1) := Nat.add_le_add_left (Nat.mul_le_mul_left _ (Nat.le_succ i)) _
      have hle' : t.off + 512 * (i + 1) ≤ t.off + 512 * (i + 1 + m) :=
        Nat.add_le_add_left (Nat.mul_le_mul_left _ (Nat.le_add_right _ m)) _
      by_cases hlater : t.off + 512 * (i + 1) ≤ o ∧ o < t.off + 512 * (i + 1 + m)
      · rw [if_pos hlater, if_pos ⟨le_trans hle hlater.1, hlater.2⟩]
        rfl
      · rw [if_neg hlater]
        refine hget.trans ?_
        by_cases hfirst : t.off + 512 * i ≤ o ∧ o < t.off + 512 * (i + 1)
        · rw [if_pos hfirst, if_pos ⟨hfirst.1, lt_of_lt_of_le hfirst.2 hle'⟩, getD_sectorBytes hfirst.1 hfirst.2]
        · rw [if_neg hfirst, if_neg]
          rintro ⟨hlo, hhi⟩
          rcases Nat.lt_or_ge o (t.off + 512 * (i + 1)) with hlt | hge
          · exact hfirst ⟨hlo, hlt⟩
          · exact hlater ⟨hge, hhi⟩
    · have hd : (withDisk l (s.disk.withSector t.drive (t.off + 512 * i) (sectorBytes t i s)) q s).disk.at t.drive = _ := hat
      rw [hd] at hraw hfit
      exact ⟨hraw, Nat.succ_lt_succ hlt, hfit, hrange⟩

end ImageWritten

/-- The bytes read for sector i. -/
theorem readBytes_sector (t : Transfer) (i : Nat) (s : State) : ∃ l,
    readBytes 512 (t.buf + BitVec.ofNat 20 (512 * i)) s =
      (ImageWritten.sectorBytes t i s, withDisk l s.disk s.draws s) := readBytes_eq 512 _ s

/-- Only a raw device may fail. -/
theorem hostFail_withDisk (raw : Bool) (l : BitVec 32) (s : State) : ∃ b q,
    hostFail raw (withDisk l s.disk s.draws s) = (b, withDisk l s.disk q s) ∧ (b = true → raw = true) :=
  hostFail_eq raw (withDisk l s.disk s.draws s)

/-- R610: m sectors go to the drive, one after another. -/
theorem writeSectors_eq (t : Transfer) (n i : Nat) (s : State) : ∃ m l k q, MovedCount t (s.disk.at t.drive) n i m ∧
    ImageWritten t n i m s k ∧
    writeSectors t n i s = (⟨i + m, if m = n then none else some s.params.diskErrWrite⟩, withDisk l k q s) := by
  induction n generalizing i s with
  | zero => exact ⟨0, s.video.latch, s.disk, s.draws, .zero _ _ _ _ fun _ => .inl rfl, .refl t 0 i s, rfl⟩
  | succ n ih =>
    obtain ⟨l, hr⟩ := readBytes_sector t i s
    by_cases hsize : (s.disk.at t.drive).size < t.off + 512 * (i + 1)
    · exact ⟨0, l, s.disk, s.draws, .zero _ _ _ _ fun _ => .inr hsize, .refl t _ i s, writeSectors_past_end hsize hr⟩
    · have hfit := Nat.not_lt.1 hsize
      obtain ⟨b, q, hfail, hraw⟩ := hostFail_withDisk (s.disk.at t.drive).raw l s
      rw [writeSectors_fits hfit hr hfail, storeSector_withDisk, drawBytes_withDisk, storeSector_withDisk,
        ← Disk.withSector, ← Disk.withSector, withDisk_params]
      cases b
      case true =>
        exact ⟨0, l, _, _, .zero _ _ _ _ fun h => absurd (hraw rfl) (ne_true_of_eq_false h),
          .failed (length_drawBytes 512 _) (hraw rfl) hfit, rfl⟩
      case false =>
        obtain ⟨m, l', k, q', hm, hk, he⟩ := ih (i + 1)
          (withDisk l (s.disk.withSector t.drive (t.off + 512 * i) (ImageWritten.sectorBytes t i s)) q s)
        have hat : (s.disk.withSector t.drive (t.off + 512 * i) (ImageWritten.sectorBytes t i s)).at t.drive = _ :=
          Disk.at_setAt_same ..
        refine ⟨m + 1, l', k, q', (hm.congr ?_ ?_).succ hfit, hk.succ, ?_⟩
        · exact (congrArg (·.size) hat).symm
        · exact (congrArg (·.raw) hat).symm
        · have hcount : i + 1 + m = i + (m + 1) := by omega
          rw [if_neg Bool.false_ne_true, he, hcount, withDisk_withDisk, withDisk_params]
          simp only [Nat.add_right_cancel_iff]

end Sys2Proof.Machine
end

section
/-! PROOFS. INT 13h AH = 02 and 03: the checks, the transfer and its result (spec/47_bios_disk_int13.md R607 to R611). -/

namespace Sys2Proof.Machine

/-! ## The registers of a call (R607, R608) -/

section
variable {s : State}

theorem sectOf_eq (cl : Byte) : sectOf cl = cl.toNat % 64 := by simp [sectOf]
theorem cylOf_eq (ch cl : Byte) : cylOf ch cl = ch.toNat + 256 * (cl.toNat / 64) := by
  have hhigh : cl.toNat / 64 < 4 := Nat.div_lt_of_lt_mul cl.isLt
  simp [cylOf, Nat.shiftRight_eq_div_pow, Nat.mod_eq_of_lt hhigh]

/-- The transfer a call asks for. -/
def transferOf (s : State) : Transfer :=
  let drive := s.disk.at (reg8 .dl s)
  let cyl := (reg8 .ch s).toNat + 256 * ((reg8 .cl s).toNat / 64)
  ⟨reg8 .dl s, ((cyl * drive.heads + (reg8 .dh s).toNat) * drive.sects + (reg8 .cl s).toNat % 64 - 1) * 512,
    (reg8 .al s).toNat, lin (sreg .es s) (reg16 .bx s)⟩

/-- R608: the checks in their order. -/
theorem decodeTransfer_eq (s : State) : decodeTransfer s =
    if (s.disk.at (reg8 .dl s)).inserted = false then .error s.params.diskErrNotInserted
    else if (reg8 .cl s).toNat % 64 = 0 ∨ (s.disk.at (reg8 .dl s)).size < (transferOf s).off then
      .error s.params.diskErrBadAddress
    else .ok (transferOf s) := by
  simp only [decodeTransfer, sectOf_eq, cylOf_eq, chsToLba, sectorSize, Bool.not_eq_true', ite_or]
  rfl

theorem decodeTransfer_of_empty (h : (s.disk.at (reg8 .dl s)).inserted = false) :
    decodeTransfer s = .error s.params.diskErrNotInserted := (decodeTransfer_eq s).trans (if_pos h)

theorem decodeTransfer_of_badAddress (h : (s.disk.at (reg8 .dl s)).inserted = true)
    (hbad : (reg8 .cl s).toNat % 64 = 0 ∨ (s.disk.at (reg8 .dl s)).size < (transferOf s).off) :
    decodeTransfer s = .error s.params.diskErrBadAddress := by
  rw [decodeTransfer_eq, if_neg (by simp [h]), if_pos hbad]

theorem decodeTransfer_of_good (h : (s.disk.at (reg8 .dl s)).inserted = true)
    (hbad : ¬ ((reg8 .cl s).toNat % 64 = 0 ∨ (s.disk.at (reg8 .dl s)).size < (transferOf s).off)) :
    decodeTransfer s = .ok (transferOf s) := by
  rw [decodeTransfer_eq, if_neg (by simp [h]), if_neg hbad]

theorem transferResult_eq (m : Moved) (s : State) : transferResult m s =
    setFlag .cf m.error.isSome (setReg8 .ah (m.error.getD 0) (setReg8 .al (BitVec.ofNat 8 m.sectors) s)) := by
  unfold transferResult
  cases m.error <;> rfl

/-! ## What a transfer leaves -/

/-- What the sector loops leave: the registers too. -/
structure LoopKept (s v : State) : Prop where
  call : CallKept s v
  regs : v.regs = s.regs

/-- Memory and drives after the sector loop of a call that moved m sectors. -/
structure Transferred (s v : State) (m : Nat) : Prop where
  count : MovedCount (transferOf s) (s.disk.at (reg8 .dl s)) (reg8 .al s).toNat 0 m
  read : reg8 .ah s = 0x02#8 → ∃ k, v = (writeBytes (fileBytes (s.disk.at (reg8 .dl s)) (transferOf s).off (512 * m))
    (transferOf s).buf s).setDraws k
  write : reg8 .ah s = 0x03#8 → ∃ l k q, ImageWritten (transferOf s) (reg8 .al s).toNat 0 m s k ∧ v = withDisk l k q s

/-- The failure code of a sector (R609, R610). -/
def sectorError (s : State) : Byte := if reg8 .ah s == 0x03#8 then s.params.diskErrWrite else s.params.diskErrRead

/-- A call that fails its checks moves nothing. -/
theorem int13Dispatch_error (hah : reg8 .ah s ∈ [0x02#8, 0x03#8]) {code : Byte} (h : decodeTransfer s = .error code) :
    int13Dispatch s = transferResult ⟨0, some code⟩ s := by
  rw [List.mem_pair] at hah
  obtain hr | hw := hah
  · rw [int13Dispatch_read hr, int13Read, h]
  · rw [int13Dispatch_write hw, int13Write, h]

/-- A call that passes them runs the loop. -/
theorem int13Dispatch_ok (hah : reg8 .ah s ∈ [0x02#8, 0x03#8]) (h : decodeTransfer s = .ok (transferOf s)) : ∃ m v,
    int13Dispatch s = transferResult ⟨m, if m = (reg8 .al s).toNat then none else some (sectorError s)⟩ v ∧
    LoopKept s v ∧ Transferred s v m := by
  rw [List.mem_pair] at hah
  obtain hr | hw := hah
  · obtain ⟨m, k, hm, he⟩ := readSectors_eq (transferOf s) (reg8 .al s).toNat 0 s
    rw [int13Dispatch_read hr, int13Read, h]
    have hnw : reg8 .ah s ≠ 0x03#8 := by simp [hr]
    simp only [Nat.mul_zero, Nat.add_zero, Nat.zero_add, BitVec.add_zero] at he
    refine ⟨m, _, ?_, ⟨((CallKept.refl s).writeBytes _ _).setDraws k, writeBytes_regs ..⟩, hm, fun _ => ⟨k, rfl⟩,
      fun hw => absurd hw hnw⟩
    simp only [sectorError, beq_eq_false_iff_ne.2 hnw, Bool.false_eq_true, if_false]
    exact congrArg (fun r : Moved × State => transferResult r.1 r.2) he
  · obtain ⟨m, l, k, q, hm, hk, he⟩ := writeSectors_eq (transferOf s) (reg8 .al s).toNat 0 s
    rw [int13Dispatch_write hw, int13Write, h]
    have hnr : reg8 .ah s ≠ 0x02#8 := by simp [hw]
    rw [Nat.zero_add] at he
    refine ⟨m, withDisk l k q s, ?_, ⟨⟨rfl, fun _ _ => rfl, fun _ _ => rfl, hk.lastAh, hk.lastCf, ?_⟩, rfl⟩, hm,
      fun hr => absurd hr hnr, fun _ => ⟨l, k, q, hk, rfl⟩⟩
    · simp only [sectorError, hw, beq_self_eq_true, if_true]
      exact congrArg (fun r : Moved × State => transferResult r.1 r.2) he
    · constructor <;> rfl

/-! ## The result registers -/

variable {v : State} (m : Moved)

theorem LoopKept.result (h : LoopKept s v) : CallKept s (transferResult m v) := by
  rw [transferResult_eq]
  exact ((h.call.setReg8 _ _).setReg8 _ _).setCf _

theorem LoopKept.result_regs (h : LoopKept s v) : ∀ r ∈ [Reg16.cx, .dx, .bx], reg16 r (transferResult m v) = reg16 r s := by
  intro r hr
  have hne : r ≠ .ax := by rintro rfl; simp at hr
  rw [transferResult_eq]
  simp only [reg16_setFlag]
  rw [reg16_setReg8_other (by simpa [fullReg] using hne), reg16_setReg8_other (by simpa [fullReg] using hne)]
  exact reg16_congr r h.regs

theorem memEq_transferResult (v : State) : MemEq v (transferResult m v) := by
  rw [transferResult_eq]
  exact (((MemEq.refl v).setReg8 _ _).setReg8 _ _).setFlag _ _

@[simp] theorem reg8_al_transferResult (v : State) : reg8 .al (transferResult m v) = BitVec.ofNat 8 m.sectors := by
  rw [transferResult_eq]
  simp [reg8_setReg8]

@[simp] theorem reg8_ah_transferResult (v : State) : reg8 .ah (transferResult m v) = m.error.getD 0 := by
  rw [transferResult_eq]
  simp

@[simp] theorem cf_transferResult (v : State) : flag .cf (transferResult m v) = m.error.isSome := by
  rw [transferResult_eq]
  simp

@[simp] theorem transferResult_disk (v : State) : (transferResult m v).disk = v.disk := by
  rw [transferResult_eq]
  rfl

/-! ## The mirror on a memory whose latch may differ -/

theorem mirrored_withDisk (d ah : Byte) (l : BitVec 32) (k : Disk) (q : Nat) (s : State) :
    mirrored d ah (withDisk l k q s) = withDisk l k q (mirrored d ah s) := by
  have hram : inAperture 0x00474#20 = false := by decide
  have hro : isReadonly 0x00474#20 (withDisk l k q s) = isReadonly 0x00474#20 s := rfl
  simp only [mirrored, write8, hram, hro]
  split
  · split <;> rfl
  · rfl

theorem sameMemory_withDisk (l : BitVec 32) (k : Disk) (q : Nat) (s : State) : SameMemory (withDisk l k q s) s :=
  ⟨fun _ => rfl, fun _ => rfl, rfl⟩

/-- How far a transfer goes, from the first sector on, in the words of R609 and R610. -/
theorem MovedCount.min {t : Transfer} {v : Drive} {n m : Nat} (h : MovedCount t v n 0 m) (hoff : t.off ≤ v.size) :
    m ≤ min n ((v.size - t.off) / 512) ∧ (v.raw = false → m = min n ((v.size - t.off) / 512)) := by
  obtain ⟨hle, hfits, hends⟩ := h
  rw [Nat.zero_add] at hfits hends
  have hfit : m ≤ (v.size - t.off) / 512 := by
    rw [Nat.le_div_iff_mul_le (by decide)]
    obtain rfl | hm := Nat.eq_zero_or_pos m
    · rw [Nat.zero_mul]
      exact Nat.zero_le _
    · exact Nat.le_sub_of_add_le' (Nat.mul_comm m 512 ▸ hfits hm)
  refine ⟨Nat.le_min.2 ⟨hle, hfit⟩, fun hraw => ?_⟩
  obtain rfl | hend := hends hraw
  · exact (Nat.min_eq_left hfit).symm
  · have hlt : (v.size - t.off) / 512 < m + 1 := by
      rw [Nat.div_lt_iff_lt_mul (by decide), Nat.mul_comm]
      exact Nat.sub_lt_left_of_lt_add hoff hend
    have hm : m = (v.size - t.off) / 512 := le_antisymm hfit (Nat.le_of_lt_succ hlt)
    rw [← hm]
    exact (Nat.min_eq_right hle).symm

end

/-- A call that fails its checks: nothing but the result registers and the mirror. -/
theorem completes_failed {s : State} (hshort : s.params.int13ShortCircuit = true) (hah : reg8 .ah s ∈ [0x02#8, 0x03#8])
    {code : Byte} (h : decodeTransfer s = .error code) : Completes (.int 0x13#8) s (fun t => DiskServed s t ∧
      (∀ r ∈ [Reg16.cx, .dx, .bx], reg16 r t = reg16 r s) ∧ reg8 .al t = 0 ∧ reg8 .ah t = code ∧ flag .cf t = true ∧
      t.disk.drive = s.disk.drive ∧ SameMemory t (mirrored (reg8 .dl s) code s)) := by
  have hu := int13Dispatch_error hah h
  have hkept : LoopKept s s := ⟨.refl s, rfl⟩
  have hmem := sameMemory_afterCall (s := s) (memEq_transferResult ⟨0, some code⟩ s)
  rw [reg8_afterCall, reg8_ah_transferResult] at hmem
  refine ⟨_, exec_int13 hshort, ?_⟩
  rw [hu]
  refine ⟨(hkept.result _).diskServed, ?_, ?_, ?_, ?_, ?_, hmem⟩
  · simpa using hkept.result_regs _
  all_goals simp

/-- The disks of a call that wrote (R610). -/
theorem ImageWritten.image {s : State} {k : Disk} {m : Nat} (h : ImageWritten (transferOf s) (reg8 .al s).toNat 0 m s k)
    (o : Nat) :
    let t := transferOf s
    let drive := s.disk.at t.drive
    (k.at t.drive).backing.get 0#8 o =
        (if t.off ≤ o ∧ o < t.off + 512 * m then peek8 (t.buf + BitVec.ofNat 20 (o - t.off)) s
         else drive.backing.get 0#8 o) ∨
      drive.raw = true ∧ m < min t.count ((drive.size - t.off) / 512) ∧ t.off + 512 * m ≤ o ∧ o < t.off + 512 * (m + 1) := by
  have hb := h.bytes o
  rw [Nat.zero_add, Nat.mul_zero, Nat.add_zero] at hb
  refine hb.imp_right fun ⟨hraw, hlt, hfit, hrange⟩ => ⟨hraw, Nat.lt_min.2 ⟨hlt, ?_⟩, hrange⟩
  rw [Nat.lt_iff_add_one_le, Nat.le_div_iff_mul_le (by decide), Nat.mul_comm]
  exact Nat.le_sub_of_add_le' hfit

/-- Settles O59: the checks, then the sector loop by induction on the sectors to go. -/
theorem diskTransfers : Obligations.DiskTransfers := by
  intro s hshort hah d drive writes count sect cyl off buf failed
  cases hin : drive.inserted
  case false =>
    obtain ⟨t, he, hserved, hregs, hfail⟩ := completes_failed hshort hah (decodeTransfer_of_empty hin)
    exact ⟨t, he, hserved, hregs, fun _ => hfail, nofun, nofun⟩
  by_cases hbad : sect = 0 ∨ drive.size < off
  · obtain ⟨t, he, hserved, hregs, hfail⟩ := completes_failed hshort hah (decodeTransfer_of_badAddress hin hbad)
    exact ⟨t, he, hserved, hregs, nofun, fun _ _ => hfail, fun _ hs ho => (hbad.elim hs (Nat.not_lt.2 ho)).elim⟩
  obtain ⟨m, v, hu, hkept, hmoved⟩ := int13Dispatch_ok hah (decodeTransfer_of_good hin hbad)
  have hmem := sameMemory_afterCall (s := s) (memEq_transferResult ⟨m, if m = count then none else some (sectorError s)⟩ v)
  refine ⟨_, exec_int13 hshort, ?_⟩
  rw [hu]
  refine ⟨(hkept.result _).diskServed, by simpa using hkept.result_regs _, nofun, fun _ h => absurd h hbad,
    fun _ _ hoff => ⟨m, (hmoved.count.min hoff).1, (hmoved.count.min hoff).2, ?al, ?cf, ?ah, fun hw => ?read, fun hw => ?write⟩⟩
  case al =>
    rw [reg8_afterCall, reg8_al_transferResult]
    exact (BitVec.toNat_ofNat ..).trans (Nat.mod_eq_of_lt (lt_of_le_of_lt hmoved.count.le (reg8 .al s).isLt))
  case cf =>
    rw [flag_afterCall, cf_transferResult]
    rcases Nat.lt_or_eq_of_le hmoved.count.le with hlt | heq
    · simp [count, hlt, hlt.ne]
    · simp [count, heq]
  case ah =>
    rw [reg8_afterCall, reg8_ah_transferResult]
    split <;> rfl
  case read =>
    have hr : reg8 .ah s = 0x02#8 := ((List.mem_pair.1 hah).resolve_right (beq_eq_false_iff_ne.1 hw))
    obtain ⟨k, rfl⟩ := hmoved.read hr
    have hdraws (x : State) : MemEq x (x.setDraws k) := ⟨rfl, rfl, rfl⟩
    refine ⟨?_, hmem.trans ((hdraws _).mirrored _ _).same⟩
    rw [afterCall_drive, transferResult_disk, State.setDraws_disk, writeBytes_disk]
  case write =>
    obtain ⟨l, k, q, hk, rfl⟩ := hmoved.write (beq_iff_eq.1 hw)
    have hat (n : Byte) : (afterCall s (transferResult ⟨m, if m = count then none else some (sectorError s)⟩
        (withDisk l k q s))).disk.at n = k.at n := by
      unfold Disk.at
      rw [afterCall_drive, transferResult_disk]
      rfl
    rw [mirrored_withDisk] at hmem
    refine ⟨hmem.trans (sameMemory_withDisk ..), fun n hn => (hat n).trans (hk.others n hn), ?_, fun o => ?_⟩
    · rw [hat]
      exact hk.drive
    · rw [hat]
      exact hk.image o

end Sys2Proof.Machine
end

section
/-! PROOFS. A repeated string instruction from its first element to its last (spec/43_string.md R420 to R426;
spec/46_ext186.md R567, R568). -/

namespace Sys2Proof.Machine

/-! ## Frames one after another -/

section
variable {w : Writes} {s t u : State}

theorem Frame.trans (h : Frame w s t) (h' : Frame w t u) : Frame w s u where
  regs r h1 h2 := (h'.regs r h1 h2).trans (h.regs r h1 h2)
  halves b h1 h2 := (h'.halves b h1 h2).trans (h.halves b h1 h2)
  sregs k hk := (h'.sregs k hk).trans (h.sregs k hk)
  flags k hk := (h'.flags k hk).trans (h.flags k hk)
  memory := h.memory.trans h'.memory
  latch ha := (h'.latch ha).trans (h.latch ha)
  ip hi := (h'.ip hi).trans (h.ip hi)
  run hr := (h'.run hr).trans (h.run hr)
  devices := h.devices.trans h'.devices

theorem Frame.mono_memory {mem reads : List Linear} (h : Frame w s t) (hm : w.mem ⊆ mem) (hr : w.reads ⊆ reads) :
    Frame { w with mem, reads } s t :=
  h.mono (List.Subset.refl _) (List.Subset.refl _) (List.Subset.refl _) (List.Subset.refl _) hm hr id id

/-- An instruction that does not look at the repeat slot frames with the slot set too. -/
theorem Frame.of_setRep {r : Option RepPrefix} (h : Frame w (s.setRep r) (t.setRep r)) (hrep : t.rep = s.rep) :
    Frame w s t :=
  ⟨h.regs, h.halves, h.sregs, h.flags, ⟨h.memory.bytes, h.memory.ram, h.memory.planes, h.memory.planeBytes⟩, h.latch,
    h.ip, h.run, { h.devices with rep := hrep }⟩

theorem Sregs.ext_get {f g : Sregs} (h : ∀ k, f.get k = g.get k) : f = g := by
  obtain ⟨es, cs, ss, ds⟩ := f
  obtain ⟨es', cs', ss', ds'⟩ := g
  obtain ⟨rfl, rfl, rfl, rfl⟩ : es = es' ∧ cs = cs' ∧ ss = ss' ∧ ds = ds' := ⟨h .es, h .cs, h .ss, h .ds⟩
  rfl

end

/-! ## Where the elements are (R420) -/

/-- The offset of element k from a pointer. -/
def elementAt (s : State) (ptr n : Word) (k : Nat) : Word := ptr + BitVec.ofNat 16 k * delta n s

def srcAt (s : State) (n : Word) (k : Nat) : Linear :=
  lin (sreg (overridden .ds s) s) (elementAt s (reg16 .si s) n k)

def dstAt (s : State) (n : Word) (k : Nat) : Linear := lin (sreg .es s) (elementAt s (reg16 .di s) n k)

/-- The bytes of an element. -/
def bytesOf (n : Word) (a : Linear) : List Linear := if n = 1 then [a] else wordAt a

/-- The bytes of the first elements, none when `used` is false. -/
def elementBytes (used : Bool) (n : Word) (addr : Nat → Linear) (count : Nat) : List Linear :=
  if used then (List.range count).flatMap fun k => bytesOf n (addr k) else []

theorem mem_elementBytes {used : Bool} {n : Word} {addr : Nat → Linear} {count : Nat} {a : Linear} :
    a ∈ elementBytes used n addr count ↔ used = true ∧ ∃ k < count, a ∈ bytesOf n (addr k) := by
  cases used <;> simp [elementBytes]

theorem elementBytes_one (n : Word) (addr : Nat → Linear) : elementBytes true n addr 1 = bytesOf n (addr 0) := by
  simp [elementBytes]

section
variable {used : Bool} {n : Word} {addr later : Nat → Linear} (m : Nat)

theorem elementBytes_first : elementBytes used n addr 1 ⊆ elementBytes used n addr (m + 1) := fun a ha => by
  rw [mem_elementBytes] at ha ⊢
  exact ha.imp_right fun ⟨k, hk, h⟩ => ⟨k, by omega, h⟩

theorem elementBytes_rest (h : used = true → ∀ k, later k = addr (k + 1)) :
    elementBytes used n later m ⊆ elementBytes used n addr (m + 1) := fun a ha => by
  rw [mem_elementBytes] at ha ⊢
  obtain ⟨hu, k, hk, hb⟩ := ha
  exact ⟨hu, k + 1, Nat.succ_lt_succ hk, h hu k ▸ hb⟩

end

/-- What every element of MOVS, LODS, STOS, INS and OUTS leaves in the CPU. -/
structure ElementKept (s t : State) : Prop where
  regs : ∀ r, r ∉ [Reg16.ax, .cx, .si, .di] → reg16 r t = reg16 r s
  sregs : t.sregs = s.sregs
  flags : t.flags = s.flags
  ip : t.ip = s.ip
  run : t.run = s.run
  readonly : t.readonly = s.readonly
  segOverride : t.segOverride = s.segOverride

namespace ElementKept
variable {s t u : State}

theorem refl (s : State) : ElementKept s s := ⟨fun _ _ => rfl, rfl, rfl, rfl, rfl, rfl, rfl⟩

theorem trans (h : ElementKept s t) (h' : ElementKept t u) : ElementKept s u :=
  ⟨fun r hr => (h'.regs r hr).trans (h.regs r hr), h'.sregs.trans h.sregs, h'.flags.trans h.flags, h'.ip.trans h.ip,
    h'.run.trans h.run, h'.readonly.trans h.readonly, h'.segOverride.trans h.segOverride⟩

theorem of_frame {w : Writes} (h : Frame w s t) (hregs : w.regs ⊆ [.ax, .cx, .si, .di]) (hbytes : w.bytes ⊆ [.al])
    (hw : w = { w with sregs := [], flags := [], ip := false, run := false }) : ElementKept s t := by
  rw [hw] at h
  refine ⟨fun r hr => h.regs r (fun hc => hr (hregs hc)) fun b hb => ?_, Sregs.ext_get fun k => h.sregs k List.not_mem_nil,
    Flags.ext_get fun k => h.flags k List.not_mem_nil, h.ip rfl, h.run rfl, h.devices.readonly, h.devices.segOverride⟩
  obtain rfl := List.mem_singleton.1 (hbytes hb)
  rintro rfl
  exact hr List.mem_cons_self

end ElementKept

/-- The element after the first one is the first one of what is left. -/
theorem elementAt_next {s v : State} (hdf : flag .df v = flag .df s) (ptr n : Word) (k : Nat) :
    elementAt v (elementAt s ptr n 1) n k = elementAt s ptr n (k + 1) := by
  simp only [elementAt, delta_congr n hdf]
  rw [Nat.add_comm k, BitVec.ofNat_add, BitVec.add_mul, add_assoc]

theorem elementAt_zero (s : State) (ptr n : Word) : elementAt s ptr n 0 = ptr := by simp [elementAt]
theorem elementAt_one (s : State) (ptr n : Word) : elementAt s ptr n 1 = ptr + delta n s := by simp [elementAt]

theorem srcAt_zero (s : State) (n : Word) : srcAt s n 0 = sourceAddr s := by rw [srcAt, elementAt_zero, sourceAddr]
theorem dstAt_zero (s : State) (n : Word) : dstAt s n 0 = destAddr s := by rw [dstAt, elementAt_zero, destAddr]

section
variable {s v : State} {n : Word} (hdf : flag .df v = flag .df s) (hsregs : ∀ k, sreg k v = sreg k s)
include hdf hsregs

theorem srcAt_next (hsi : reg16 .si v = elementAt s (reg16 .si s) n 1) (hover : v.segOverride = s.segOverride) (k : Nat) :
    srcAt v n k = srcAt s n (k + 1) := by
  rw [srcAt, srcAt, hsi, elementAt_next hdf, overridden, overridden, hover, hsregs]

theorem dstAt_next (hdi : reg16 .di v = elementAt s (reg16 .di s) n 1) (k : Nat) : dstAt v n k = dstAt s n (k + 1) := by
  rw [dstAt, dstAt, hdi, elementAt_next hdf, hsregs]

end

theorem reg8_al_of_ax {s t : State} (h : reg16 .ax t = reg16 .ax s) : reg8 .al t = reg8 .al s := congrArg lowByte h

/-! ## MOVS, LODS, STOS, INS and OUTS -/

/-- What a repetition may change but for the ports of INS and OUTS. -/
def rowWrites (i : Instr) (reads stores : Bool) (n : Word) (count : Nat) (s : State) : Writes :=
  { regs := if i = .lodsw then [.ax, .cx, .si] else [.cx, .si, .di]
    bytes := if i = .lodsb then [.al] else []
    mem := elementBytes stores n (dstAt s n) count
    reads := elementBytes reads n (srcAt s n) count }

/-- `count` elements of an instruction that reads at SI, stores at DI or does both, by elements of n bytes. -/
structure RowRun (i : Instr) (reads stores : Bool) (n : Word) (count : Nat) (s t : State) : Prop where
  kept : ElementKept s t
  si : reg16 .si t = if reads then elementAt s (reg16 .si s) n count else reg16 .si s
  di : reg16 .di t = if stores then elementAt s (reg16 .di s) n count else reg16 .di s
  ax : (i ∈ [Instr.lodsb, .lodsw] → count = 0) → reg16 .ax t = reg16 .ax s
  loaded : i ∈ [Instr.lodsb, .lodsw] → count ≠ 0 → if i = .lodsb then reg8 .al t = peek8 (srcAt s 1 (count - 1)) s
    else reg16 .ax t = peek16 (srcAt s 2 (count - 1)) s
  memory : i ∉ [Instr.outsb, .outsw] → KeepsMemory (elementBytes stores n (dstAt s n) count) s t
  frame : i ∉ [Instr.insb, .insw, .outsb, .outsw] → Frame (rowWrites i reads stores n count s) s t
  planes : i ∈ [Instr.outsb, .outsw] → t.ram = s.ram ∧ t.video.planes = s.video.planes

namespace RowRun
variable {i : Instr} {reads stores : Bool} {n : Word} {m : Nat} {s t v : State}

theorem zero (s : State) : RowRun i reads stores n 0 s s where
  kept := .refl s
  si := by rw [elementAt_zero, ite_self]
  di := by rw [elementAt_zero, ite_self]
  ax _ := rfl
  loaded _ h := absurd rfl h
  memory _ := .refl _ s
  frame _ := .refl _ s
  planes _ := ⟨rfl, rfl⟩

/-- CX counts the elements. -/
theorem setCx (h : RowRun i reads stores n m s t) (c : Word) : RowRun i reads stores n m s (setReg16 .cx c t) where
  kept := { h.kept with
    regs r hr := by
      rw [reg16_setReg16_other (by rintro rfl; simp at hr)]
      exact h.kept.regs r hr }
  si := (reg16_setReg16_other (by decide) ..).trans h.si
  di := (reg16_setReg16_other (by decide) ..).trans h.di
  ax ha := (reg16_setReg16_other (by decide) ..).trans (h.ax ha)
  loaded hi hm := by
    have hal : reg8 .al (Machine.setReg16 .cx c t) = reg8 .al t := (reg8_setReg16 ..).trans (if_neg (by decide))
    rw [hal, reg16_setReg16_other (by decide)]
    exact h.loaded hi hm
  memory hi := (h.memory hi).congr (by simp) rfl rfl
  frame hi := (h.frame hi).setReg16 (by unfold rowWrites; split <;> simp) c
  planes := h.planes

theorem df (h : RowRun i reads stores n 1 s v) : flag .df v = flag .df s := flag_congr .df h.kept.flags

theorem srcAt_next (h : RowRun i true stores n 1 s v) (k : Nat) : srcAt v n k = srcAt s n (k + 1) :=
  Machine.srcAt_next h.df (fun k => sreg_congr k h.kept.sregs) h.si h.kept.segOverride k

theorem dstAt_next (h : RowRun i reads true n 1 s v) (k : Nat) : dstAt v n k = dstAt s n (k + 1) :=
  Machine.dstAt_next h.df (fun k => sreg_congr k h.kept.sregs) h.di k

/-- The last element loaded. -/
theorem loaded_cons (hi : i ∈ [Instr.lodsb, .lodsw]) (hn : n = if i = .lodsb then 1 else 2)
    (h : RowRun i true false n 1 s v) (h' : RowRun i true false n m v t) :
    if i = .lodsb then reg8 .al t = peek8 (srcAt s 1 m) s else reg16 .ax t = peek16 (srcAt s 2 m) s := by
  have hmem : ∀ a, peek8 a v = peek8 a s := fun a =>
    (h.memory (by rintro ho; simp at hi ho; rcases hi with rfl | rfl <;> simp at ho)).bytes a List.not_mem_nil
  have hfirst := h.loaded hi Nat.one_ne_zero
  have hlater := h'.loaded hi
  cases m with
  | zero =>
    have hax := h'.ax fun _ => rfl
    rwa [reg8_al_of_ax hax, hax]
  | succ m =>
    have hlast := hlater (Nat.succ_ne_zero m)
    rw [Nat.add_sub_cancel] at hlast
    split at hn <;> subst hn
    · rename_i hb
      rw [if_pos hb] at hlast ⊢
      rw [hlast, h.srcAt_next, hmem]
    · rename_i hb
      rw [if_neg hb] at hlast ⊢
      rw [hlast, h.srcAt_next, peek16, peek16, hmem, hmem]

/-- The first element, then the others. -/
theorem cons (hl : i ∈ [Instr.lodsb, .lodsw] → reads = true ∧ stores = false ∧ n = if i = .lodsb then 1 else 2)
    (h : RowRun i reads stores n 1 s v) (h' : RowRun i reads stores n m v t) :
    RowRun i reads stores n (m + 1) s t := by
  have hstored : elementBytes stores n (dstAt v n) m ⊆ elementBytes stores n (dstAt s n) (m + 1) :=
    elementBytes_rest m fun hs k => by subst hs; exact h.dstAt_next k
  have hread : elementBytes reads n (srcAt v n) m ⊆ elementBytes reads n (srcAt s n) (m + 1) :=
    elementBytes_rest m fun hr k => by subst hr; exact h.srcAt_next k
  refine ⟨h.kept.trans h'.kept, ?_, ?_, fun ha => ?_, fun hi _ => ?_, fun hi => ?_, fun hi => ?_, fun hi => ?_⟩
  · rw [h'.si, h.si]
    split
    · exact elementAt_next h.df ..
    · rfl
  · rw [h'.di, h.di]
    split
    · exact elementAt_next h.df ..
    · rfl
  · exact (h'.ax fun hi => absurd (ha hi) (Nat.succ_ne_zero m)).trans (h.ax fun hi => absurd (ha hi) (Nat.succ_ne_zero m))
  · obtain ⟨rfl, rfl, hn⟩ := hl hi
    exact loaded_cons hi hn h h'
  · exact ((h.memory hi).mono (elementBytes_first m)).trans ((h'.memory hi).mono hstored)
  · refine ((h.frame hi).mono_memory (elementBytes_first m) (elementBytes_first m)).trans
      ((h'.frame hi).mono_memory hstored hread)
  · exact ⟨(h'.planes hi).1.trans (h.planes hi).1, (h'.planes hi).2.trans (h.planes hi).2⟩

/-- The loop of an element, as long as CX says. -/
theorem repeated {elem : State → State} {p : RepPrefix} (he : LoopElement elem)
    (hl : i ∈ [Instr.lodsb, .lodsw] → reads = true ∧ stores = false ∧ n = if i = .lodsb then 1 else 2)
    (hone : ∀ s, RowRun i reads stores n 1 s (elem s)) (hrep : s.rep = some p) :
    reg16 .cx (Machine.repeated false elem s) = 0 ∧
      RowRun i reads stores n (reg16 .cx s).toNat s (Machine.repeated false elem s) := by
  induction hc : (reg16 .cx s).toNat generalizing s with
  | zero =>
    have hcx : reg16 .cx s = 0 := BitVec.eq_of_toNat_eq hc
    rw [repeated_of_cx_eq_zero hrep _ hcx]
    exact ⟨hcx, .zero s⟩
  | succ m ih =>
    have hcx : reg16 .cx s ≠ 0 := by
      rintro h0
      simp [h0] at hc
    rw [repeated_of_cx_ne_zero hrep false he hcx rfl, if_neg (by simp)]
    have hv : (Machine.setReg16 .cx (reg16 .cx s - 1) (elem s)).rep = some p := (he.rep s).trans hrep
    have hm : (reg16 .cx (Machine.setReg16 .cx (reg16 .cx s - 1) (elem s))).toNat = m := by
      rw [reg16_setReg16_same]
      bv_omega
    obtain ⟨hend, hrun⟩ := ih hv hm
    exact ⟨hend, cons hl ((hone s).setCx _) hrun⟩

/-- An element does not look at the repeat slot. -/
theorem of_setRep {r : Option RepPrefix} (h : RowRun i reads stores n m (s.setRep r) (t.setRep r)) (hrep : t.rep = s.rep) :
    RowRun i reads stores n m s t where
  kept := { h.kept with }
  si := h.si
  di := h.di
  ax := h.ax
  loaded := h.loaded
  memory hi := { h.memory hi with }
  frame hi := (h.frame hi).of_setRep hrep
  planes := h.planes

end RowRun

end Sys2Proof.Machine
end

section
/-! PROOFS. One element of each string instruction, as the start of a repetition (spec/43_string.md R422 to R426;
spec/46_ext186.md R567, R568). -/

namespace Sys2Proof.Machine

/-! ## Ports leave memory -/

section
variable (s : State) (p : Word) (v : Byte)

theorem portRead8_planes : (portRead8 p s).2.video.planes = s.video.planes := by
  unfold portRead8 statusRead draw8
  split <;> (try split) <;> rfl

theorem peek8_portRead8 (a : Linear) : peek8 a (portRead8 p s).2 = peek8 a s := by
  unfold portRead8 statusRead draw8
  split <;> (try split) <;> rfl

theorem Video.portWrite_planes (port : Port) (v : Byte) (d : Video) : (d.portWrite port v).planes = d.planes := by
  cases port <;> rfl

theorem portWrite8_planes : (portWrite8 p v s).video.planes = s.video.planes := by
  unfold portWrite8
  split <;> first | rfl | exact Video.portWrite_planes _ v s.video

end

theorem elementKept_portRead8 (p : Word) (s : State) : ElementKept s (portRead8 p s).2 := by
  constructor <;> simp

theorem elementKept_portWrite8 (p : Word) (v : Byte) (s : State) : ElementKept s (portWrite8 p v s) := by
  constructor <;> simp

theorem keepsMemory_portRead8 (p : Word) (s : State) : KeepsMemory m s (portRead8 p s).2 :=
  (KeepsMemory.refl m s).congr (peek8_portRead8 s p) (portRead8_ram s p) (portRead8_planes s p)

/-! ## The elements -/

/-- Without a repeat prefix a string instruction is its element. -/
theorem Completes.element {i : Instr} {b : Bool} {elem : State → State} {s : State} {P : State → Prop}
    (h : Completes i s P) (hexec : ∀ s, exec i s = .next (repeated b elem s)) (hrep : s.rep = none) : P (elem s) := by
  obtain ⟨t, ht, hp⟩ := h
  rw [hexec, repeated_of_rep_none hrep] at ht
  obtain rfl := Host.Outcome.next.inj ht
  exact hp

theorem elementBytes_byte (addr : Nat → Linear) : elementBytes true 1#16 addr 1 = [addr 0] := elementBytes_one ..
theorem elementBytes_word (addr : Nat → Linear) : elementBytes true 2#16 addr 1 = wordAt (addr 0) := elementBytes_one ..
theorem elementBytes_unused (n : Word) (addr : Nat → Linear) (count : Nat) : elementBytes false n addr count = [] := rfl

theorem Frame.mono_regs {w : Writes} {regs : List Reg16} {s t : State} (h : Frame w s t) (hr : w.regs ⊆ regs) :
    Frame { w with regs } s t :=
  h.mono hr (List.Subset.refl _) (List.Subset.refl _) (List.Subset.refl _) (List.Subset.refl _) (List.Subset.refl _) id id

namespace RowRun
variable {i : Instr} {reads stores : Bool} {n : Word} {s t u : State}

theorem rowWrites_regs_subset : (rowWrites i reads stores n 1 s).regs ⊆ [.ax, .cx, .si, .di] := by
  unfold rowWrites
  split <;> simp

theorem rowWrites_bytes_subset : (rowWrites i reads stores n 1 s).bytes ⊆ [.al] := by
  simp only [rowWrites]
  split <;> simp

/-- One element of MOVS, LODS or STOS, from its frame. -/
theorem of_frame (hsi : reg16 .si t = if reads then reg16 .si s + delta n s else reg16 .si s)
    (hdi : reg16 .di t = if stores then reg16 .di s + delta n s else reg16 .di s)
    (hf : Frame (rowWrites i reads stores n 1 s) s t)
    (hl : if i = .lodsb then reg8 .al t = peek8 (sourceAddr s) s
      else i = .lodsw → reg16 .ax t = peek16 (sourceAddr s) s) (ho : i ∉ [Instr.outsb, .outsw]) :
    RowRun i reads stores n 1 s t where
  kept := .of_frame hf rowWrites_regs_subset rowWrites_bytes_subset rfl
  si := by rwa [elementAt_one]
  di := by rwa [elementAt_one]
  ax ha := by
    have hi : i ∉ [Instr.lodsb, .lodsw] := fun hi => absurd (ha hi) Nat.one_ne_zero
    simp only [List.mem_cons, List.not_mem_nil, or_false, not_or] at hi
    exact hf.regs .ax (by simp [rowWrites, hi.2]) (by simp [rowWrites, hi.1])
  loaded hi _ := by
    rw [Nat.sub_self, srcAt_zero, srcAt_zero]
    split at hl
    · rwa [if_pos ‹_›]
    · simp_all
  memory _ := hf.memory
  frame _ := hf
  planes hi := absurd hi ho

/-- One element of INS: u is the state its port accesses leave. -/
theorem of_store (hu : ElementKept s u) (hregs : u.regs = s.regs) {mem : List Linear} (hmem : KeepsMemory mem s u)
    (hm : elementBytes true n (dstAt s n) 1 = mem) (hdi : reg16 .di t = reg16 .di s + delta n s)
    (hf : Frame { regs := [.di], mem := mem } u t) (hi : i ∈ [Instr.insb, .insw]) : RowRun i false true n 1 s t where
  kept := hu.trans (.of_frame hf (by simp) (by simp) rfl)
  si := (hf.regs .si (by simp) nofun).trans (reg16_congr .si hregs)
  di := by rw [elementAt_one]; exact hdi
  ax _ := (hf.regs .ax (by simp) nofun).trans (reg16_congr .ax hregs)
  loaded hl := by simp at hi hl; rcases hi with rfl | rfl <;> simp at hl
  memory _ := by rw [hm]; exact hmem.trans hf.memory
  frame hn := absurd (by simp at hi ⊢; tauto) hn
  planes ho := by simp at hi ho; rcases hi with rfl | rfl <;> simp at ho

/-- One element of OUTS: u is the state its port accesses leave. -/
theorem of_port (hu : ElementKept s u) (hregs : u.regs = s.regs) (hram : u.ram = s.ram)
    (hplanes : u.video.planes = s.video.planes) (hi : i ∈ [Instr.outsb, .outsw]) :
    RowRun i true false n 1 s (advanceSI n u) where
  kept := { hu with
    regs r hr := (reg16_advanceSI_other n u (by rintro rfl; simp at hr)).trans (hu.regs r hr) }
  si := by
    rw [elementAt_one, reg16_si_advanceSI, delta_congr n (flag_congr .df hu.flags), reg16_congr .si hregs]
    rfl
  di := (reg16_advanceSI_other n u (by decide)).trans (reg16_congr .di hregs)
  ax _ := (reg16_advanceSI_other n u (by decide)).trans (reg16_congr .ax hregs)
  loaded hl := by simp at hi hl; rcases hi with rfl | rfl <;> simp at hl
  memory ho := absurd hi ho
  frame hn := absurd (by simp at hi ⊢; tauto) hn
  planes _ := ⟨hram, hplanes⟩

end RowRun

/-- The rows of the statement: instruction, whether it reads at SI, whether it stores at DI, and the element's size. -/
structure IsRow (i : Instr) (reads stores : Bool) (n : Word) : Prop where
  loads : i ∈ [Instr.lodsb, .lodsw] → reads = true ∧ stores = false ∧ n = if i = .lodsb then 1 else 2
  loop : ∃ elem, LoopElement elem ∧ (∀ s, exec i s = .next (repeated false elem s)) ∧
    ∀ s, s.rep = none → RowRun i reads stores n 1 s (elem s)

theorem rowWrites_byte (i : Instr) (reads stores : Bool) (s : State) : rowWrites i reads stores 1#16 1 s =
    { regs := if i = .lodsw then [.ax, .cx, .si] else [.cx, .si, .di]
      bytes := if i = .lodsb then [.al] else []
      mem := if stores then [destAddr s] else [], reads := if reads then [sourceAddr s] else [] } := by
  cases reads <;> cases stores <;>
    simp [rowWrites, elementBytes_byte, elementBytes_unused, srcAt_zero, dstAt_zero]

theorem rowWrites_word (i : Instr) (reads stores : Bool) (s : State) : rowWrites i reads stores 2#16 1 s =
    { regs := if i = .lodsw then [.ax, .cx, .si] else [.cx, .si, .di]
      bytes := if i = .lodsb then [.al] else []
      mem := if stores then wordAt (destAddr s) else [], reads := if reads then wordAt (sourceAddr s) else [] } := by
  cases reads <;> cases stores <;>
    simp [rowWrites, elementBytes_word, elementBytes_unused, srcAt_zero, dstAt_zero]

/-! ## The rows -/

theorem isRow_movsb : IsRow .movsb true true 1#16 := by
  refine ⟨by decide, _, movsbElem_loop, fun _ => rfl, fun s hrep => ?_⟩
  obtain ⟨h, -⟩ := stringElements s hrep
  obtain ⟨-, hsi, hdi, hf⟩ := h.element (fun _ => rfl) hrep
  refine .of_frame hsi hdi ?_ nofun (by decide)
  rw [rowWrites_byte]
  exact hf.mono_regs (by simp)

theorem isRow_movsw : IsRow .movsw true true 2#16 := by
  refine ⟨by decide, _, movswElem_loop, fun _ => rfl, fun s hrep => ?_⟩
  obtain ⟨-, h, -⟩ := stringElements s hrep
  obtain ⟨-, hsi, hdi, hf⟩ := h.element (fun _ => rfl) hrep
  refine .of_frame hsi hdi ?_ nofun (by decide)
  rw [rowWrites_word]
  exact hf.mono_regs (by simp)

theorem isRow_lodsb : IsRow .lodsb true false 1#16 := by
  refine ⟨by decide, _, lodsbElem_loop, fun _ => rfl, fun s hrep => ?_⟩
  obtain ⟨-, -, -, -, -, -, h, -⟩ := stringElements s hrep
  obtain ⟨hal, hsi, hf⟩ := h.element (fun _ => rfl) hrep
  refine .of_frame hsi (hf.regs .di (by simp) (by simp [fullReg])) ?_ hal (by decide)
  rw [rowWrites_byte]
  exact hf.mono_regs (by simp)

theorem isRow_lodsw : IsRow .lodsw true false 2#16 := by
  refine ⟨by decide, _, lodswElem_loop, fun _ => rfl, fun s hrep => ?_⟩
  obtain ⟨-, -, -, -, -, -, -, h, -⟩ := stringElements s hrep
  obtain ⟨hax, hsi, hf⟩ := h.element (fun _ => rfl) hrep
  refine .of_frame hsi (hf.regs .di (by simp) nofun) ?_ (fun _ => hax) (by decide)
  rw [rowWrites_word]
  exact hf.mono_regs (by simp)

theorem isRow_stosb : IsRow .stosb false true 1#16 := by
  refine ⟨by decide, _, stosbElem_loop, fun _ => rfl, fun s hrep => ?_⟩
  obtain ⟨-, -, -, -, -, -, -, -, h, -⟩ := stringElements s hrep
  obtain ⟨-, hdi, hf⟩ := h.element (fun _ => rfl) hrep
  refine .of_frame (hf.regs .si (by simp) nofun) hdi ?_ nofun (by decide)
  rw [rowWrites_byte]
  exact hf.mono_regs (by simp)

theorem isRow_stosw : IsRow .stosw false true 2#16 := by
  refine ⟨by decide, _, stoswElem_loop, fun _ => rfl, fun s hrep => ?_⟩
  obtain ⟨-, -, -, -, -, -, -, -, -, h, -⟩ := stringElements s hrep
  obtain ⟨-, hdi, hf⟩ := h.element (fun _ => rfl) hrep
  refine .of_frame (hf.regs .si (by simp) nofun) hdi ?_ nofun (by decide)
  rw [rowWrites_word]
  exact hf.mono_regs (by simp)

theorem isRow_insb : IsRow .insb false true 1#16 := by
  refine ⟨by decide, _, insbElem_loop, fun _ => rfl, fun s hrep => ?_⟩
  obtain ⟨-, -, -, -, -, -, -, -, -, -, ⟨h, -⟩, -⟩ := stringElements s hrep
  obtain ⟨-, hdi, hf⟩ := h.element (fun _ => rfl) hrep
  exact .of_store (elementKept_portRead8 _ s) (by simp) (keepsMemory_portRead8 _ s)
    ((elementBytes_byte _).trans (by rw [dstAt_zero, destAddr])) hdi hf (by decide)

theorem isRow_insw : IsRow .insw false true 2#16 := by
  refine ⟨by decide, _, inswElem_loop, fun _ => rfl, fun s hrep => ?_⟩
  obtain ⟨-, -, -, -, -, -, -, -, -, -, ⟨-, h⟩, -⟩ := stringElements s hrep
  obtain ⟨-, hdi, hf⟩ := h.element (fun _ => rfl) hrep
  exact .of_store ((elementKept_portRead8 _ s).trans (elementKept_portRead8 _ _)) (by simp)
    ((keepsMemory_portRead8 _ s).trans (keepsMemory_portRead8 _ _))
    ((elementBytes_word _).trans (by rw [dstAt_zero, destAddr])) hdi hf (by decide)

theorem elementKept_touch8 (a : Linear) (s : State) : ElementKept s (touch8 a s) := by
  constructor <;> simp

theorem isRow_outsb : IsRow .outsb true false 1#16 := by
  refine ⟨by decide, _, outsbElem_loop, fun _ => rfl, fun s _ => ?_⟩
  rw [outsbElem_eq]
  exact .of_port ((elementKept_touch8 _ s).trans (elementKept_portWrite8 _ _ _)) (by simp) (by simp)
    (by rw [portWrite8_planes, touch8_planes]) (by decide)

theorem isRow_outsw : IsRow .outsw true false 2#16 := by
  refine ⟨by decide, _, outswElem_loop, fun _ => rfl, fun s _ => ?_⟩
  rw [outswElem_eq]
  exact .of_port ((((elementKept_touch8 _ s).trans (elementKept_touch8 _ _)).trans (elementKept_portWrite8 _ _ _)).trans
    (elementKept_portWrite8 _ _ _)) (by simp) (by simp)
    (by rw [portWrite8_planes, portWrite8_planes, touch16_planes]) (by decide)

/-- The loop of a row. -/
theorem IsRow.completes {i : Instr} {reads stores : Bool} {n : Word} (h : IsRow i reads stores n) {s : State}
    {p : RepPrefix} (hrep : s.rep = some p) : Completes i s (fun t => reg16 .cx t = 0 ∧
      RowRun i reads stores n (reg16 .cx s).toNat s t) := by
  obtain ⟨hl, elem, he, hexec, hone⟩ := h
  refine ⟨_, hexec s, RowRun.repeated he hl (fun s => ?_) hrep⟩
  have h1 := hone (s.setRep none) rfl
  rw [he.setRep] at h1
  exact h1.of_setRep (he.rep s)

end Sys2Proof.Machine
end

section
/-! PROOFS. A repeated comparison from its first element to the one that ends it (spec/43_string.md R421, R423,
R424). -/

namespace Sys2Proof.Machine

/-! ## What is compared -/

/-- The left operand of element k: at SI, or the accumulator. -/
def leftAt (reads : Bool) (n : Word) (s : State) (k : Nat) : Word :=
  if reads then (if n = 1 then (peek8 (srcAt s 1 k) s).setWidth 16 else peek16 (srcAt s 2 k) s)
  else if n = 1 then (reg8 .al s).setWidth 16 else reg16 .ax s

/-- The right operand, at DI. -/
def rightAt (n : Word) (s : State) (k : Nat) : Word :=
  if n = 1 then (peek8 (dstAt s 1 k) s).setWidth 16 else peek16 (dstAt s 2 k) s

/-- The flags of a comparison of elements of n bytes. -/
def ComparedFlags (n a b : Word) (t : State) : Prop :=
  if n = 1 then SubFlagsAre (a.setWidth 8) (b.setWidth 8) false t else SubFlagsAre a b false t

theorem ComparedFlags.congr {n a b : Word} {s t : State} (h : ComparedFlags n a b s) (hf : t.flags = s.flags) :
    ComparedFlags n a b t := by
  unfold ComparedFlags at h ⊢
  split at h
  · rw [if_pos ‹_›]
    exact h.congr hf
  · rw [if_neg ‹_›]
    exact h.congr hf

theorem SubFlagsAre.zf_eq {w : Nat} {a b : BitVec w} {t : State} (h : SubFlagsAre a b false t) : flag .zf t = (a == b) := by
  rw [h.szp.zf, subResult_false, Bool.eq_iff_iff, beq_iff_eq, beq_iff_eq]
  exact sub_eq_zero

theorem setWidth_beq (a b : Byte) : (a.setWidth 16 == b.setWidth 16) = (a == b) := by
  rw [Bool.eq_iff_iff, beq_iff_eq, beq_iff_eq]
  bv_omega

/-- ZF after a comparison tells whether the operands are equal. -/
theorem ComparedFlags.zf {n : Word} {reads : Bool} {s t : State} {k : Nat}
    (h : ComparedFlags n (leftAt reads n s k) (rightAt n s k) t) : flag .zf t = (leftAt reads n s k == rightAt n s k) := by
  unfold ComparedFlags at h
  split at h
  · rw [h.zf_eq]
    have hright : rightAt n s k = (peek8 (dstAt s 1 k) s).setWidth 16 := if_pos ‹_›
    obtain ⟨x, hleft⟩ : ∃ x : Byte, leftAt reads n s k = x.setWidth 16 := by
      cases reads
      · exact ⟨reg8 .al s, by rw [leftAt, if_neg Bool.false_ne_true, if_pos ‹_›]⟩
      · exact ⟨peek8 (srcAt s 1 k) s, by rw [leftAt, if_pos rfl, if_pos ‹_›]⟩
    rw [hleft, hright, setWidth_beq]
    simp
  · exact h.zf_eq

/-! ## The first k elements -/

/-- The bytes that comparing element j reads. -/
def comparedBytes (reads : Bool) (n : Word) (s : State) (j : Nat) : List Linear :=
  (if reads then bytesOf n (srcAt s n j) else []) ++ bytesOf n (dstAt s n j)

/-- k elements compared. -/
structure CompareRun (reads : Bool) (n : Word) (k : Nat) (s t : State) : Prop where
  si : reg16 .si t = if reads then elementAt s (reg16 .si s) n k else reg16 .si s
  di : reg16 .di t = elementAt s (reg16 .di s) n k
  flags : k = 0 → t.flags = s.flags
  last : k ≠ 0 → ComparedFlags n (leftAt reads n s (k - 1)) (rightAt n s (k - 1)) t
  frame : Frame { regs := [.cx, .si, .di], flags := arithFlags
                  reads := (List.range k).flatMap (comparedBytes reads n s) } s t

/-- An element meets the exit condition (R421). -/
def Exits (p : RepPrefix) (reads : Bool) (n : Word) (s : State) (k : Nat) : Prop :=
  (leftAt reads n s k == rightAt n s k) = (p == .repne)

namespace CompareRun
variable {reads : Bool} {n : Word} {m : Nat} {s t v : State}

theorem zero (s : State) : CompareRun reads n 0 s s where
  si := by rw [elementAt_zero, ite_self]
  di := by rw [elementAt_zero]
  flags _ := rfl
  last h := absurd rfl h
  frame := .refl _ s

/-- CX counts the elements. -/
theorem setCx (h : CompareRun reads n m s t) (c : Word) : CompareRun reads n m s (setReg16 .cx c t) where
  si := (reg16_setReg16_other (by decide) ..).trans h.si
  di := (reg16_setReg16_other (by decide) ..).trans h.di
  flags := h.flags
  last hm := (h.last hm).congr rfl
  frame := h.frame.setReg16 List.mem_cons_self c

section
variable (h : CompareRun reads n 1 s v)
include h

theorem df : flag .df v = flag .df s := h.frame.flags .df (by simp [arithFlags])

theorem dstAt_next (k : Nat) : dstAt v n k = dstAt s n (k + 1) :=
  Machine.dstAt_next h.df (fun k => h.frame.sregs k List.not_mem_nil) h.di k

theorem srcAt_next (hr : reads = true) (k : Nat) : srcAt v n k = srcAt s n (k + 1) :=
  Machine.srcAt_next h.df (fun k => h.frame.sregs k List.not_mem_nil) (h.si.trans (if_pos hr))
    h.frame.devices.segOverride k

theorem peek8_eq (a : Linear) : peek8 a v = peek8 a s := h.frame.memory.bytes a List.not_mem_nil

theorem peek16_eq (a : Linear) : peek16 a v = peek16 a s := by rw [peek16, peek16, h.peek8_eq, h.peek8_eq]

theorem rightAt_next (hn : n = 1 ∨ n = 2) (k : Nat) : rightAt n v k = rightAt n s (k + 1) := by
  unfold rightAt
  obtain rfl | rfl := hn
  · rw [if_pos rfl, if_pos rfl, h.peek8_eq, h.dstAt_next]
  · rw [if_neg (by decide), if_neg (by decide), h.peek16_eq, h.dstAt_next]

theorem leftAt_next (hn : n = 1 ∨ n = 2) (k : Nat) : leftAt reads n v k = leftAt reads n s (k + 1) := by
  have hal : reg8 .al v = reg8 .al s := h.frame.halves .al (by simp [fullReg]) List.not_mem_nil
  have hax : reg16 .ax v = reg16 .ax s := h.frame.regs .ax (by simp) nofun
  unfold leftAt
  cases hr : reads
  · simp [hal, hax]
  · obtain rfl | rfl := hn
    · rw [if_pos rfl, if_pos rfl, if_pos rfl, if_pos rfl, h.peek8_eq, h.srcAt_next hr]
    · rw [if_pos rfl, if_pos rfl, if_neg (by decide), if_neg (by decide), h.peek16_eq, h.srcAt_next hr]

theorem comparedBytes_next (k : Nat) : comparedBytes reads n v k = comparedBytes reads n s (k + 1) := by
  unfold comparedBytes
  rw [h.dstAt_next]
  cases hr : reads
  · rfl
  · rw [h.srcAt_next hr]

/-- ZF after one element. -/
theorem exits_iff (p : RepPrefix) : flag .zf v = (p == .repne) ↔ Exits p reads n s 0 := by
  rw [(h.last Nat.one_ne_zero).zf]
  exact Iff.rfl

theorem exits_next (hn : n = 1 ∨ n = 2) (p : RepPrefix) (k : Nat) : Exits p reads n v k ↔ Exits p reads n s (k + 1) := by
  rw [Exits, Exits, h.leftAt_next hn, h.rightAt_next hn]

/-- The first element, then the others. -/
theorem cons (hn : n = 1 ∨ n = 2) (h' : CompareRun reads n m v t) : CompareRun reads n (m + 1) s t where
  si := by
    rw [h'.si, h.si]
    split
    · exact elementAt_next h.df ..
    · rfl
  di := by
    rw [h'.di, h.di]
    exact elementAt_next h.df ..
  flags hm := absurd hm (Nat.succ_ne_zero m)
  last _ := by
    rw [Nat.add_sub_cancel]
    cases m with
    | zero => exact (h.last Nat.one_ne_zero).congr (h'.flags rfl)
    | succ m =>
      have hlast := h'.last (Nat.succ_ne_zero m)
      rwa [Nat.add_sub_cancel, h.leftAt_next hn, h.rightAt_next hn] at hlast
  frame := by
    have hall : (List.range (m + 1)).flatMap (comparedBytes reads n s) =
        (List.range 1).flatMap (comparedBytes reads n s) ++ (List.range m).flatMap (comparedBytes reads n v) := by
      rw [Nat.add_comm, List.range_add, List.flatMap_append, List.flatMap_map, funext h.comparedBytes_next]
      simp only [Nat.add_comm]
    rw [hall]
    exact (h.frame.mono_memory (List.Subset.refl _) (List.subset_append_left _ _)).trans
      (h'.frame.mono_memory (List.Subset.refl _) (List.subset_append_right _ _))

end

/-- The loop of a comparison, to CX = 0 or to the first element that meets the exit condition. -/
theorem repeated {elem : State → State} {p : RepPrefix} (hn : n = 1 ∨ n = 2) (he : LoopElement elem)
    (hone : ∀ s, CompareRun reads n 1 s (elem s)) (hrep : s.rep = some p) :
    ∃ k ≤ (reg16 .cx s).toNat, (reg16 .cx (Machine.repeated true elem s)).toNat = (reg16 .cx s).toNat - k ∧
      CompareRun reads n k s (Machine.repeated true elem s) ∧
      (k ≠ (reg16 .cx s).toNat → k ≠ 0 ∧ Exits p reads n s (k - 1)) ∧ ∀ j, j + 1 < k → ¬ Exits p reads n s j := by
  induction hc : (reg16 .cx s).toNat generalizing s with
  | zero =>
    rw [repeated_of_cx_eq_zero hrep _ (BitVec.eq_of_toNat_eq hc)]
    exact ⟨0, le_rfl, hc, .zero s, fun h => absurd rfl h, nofun⟩
  | succ m ih =>
    have hcx : reg16 .cx s ≠ 0 := by
      rintro h0
      simp [h0] at hc
    have hv : (Machine.setReg16 .cx (reg16 .cx s - 1) (elem s)).rep = some p := (he.rep s).trans hrep
    have hm : (reg16 .cx (Machine.setReg16 .cx (reg16 .cx s - 1) (elem s))).toNat = m := by
      rw [reg16_setReg16_same]
      bv_omega
    have hfirst := (hone s).setCx (reg16 .cx s - 1)
    rw [repeated_of_cx_ne_zero hrep true he hcx rfl]
    by_cases hexit : Exits p reads n s 0
    · rw [if_pos ⟨rfl, (hfirst.exits_iff p).2 hexit⟩]
      exact ⟨1, Nat.succ_le_succ (Nat.zero_le m), hm, hfirst, fun _ => ⟨Nat.one_ne_zero, hexit⟩, fun j hj => absurd hj (by omega)⟩
    · rw [if_neg fun hz => hexit ((hfirst.exits_iff p).1 hz.2)]
      obtain ⟨k, hk, hcount, hrun, hstop, hbefore⟩ := ih hv hm
      refine ⟨k + 1, Nat.succ_le_succ hk, by omega, hfirst.cons hn hrun, fun hne => ⟨Nat.succ_ne_zero k, ?_⟩, fun j hj => ?_⟩
      · obtain ⟨hk0, hex⟩ := hstop (by omega)
        obtain ⟨j, rfl⟩ := Nat.exists_eq_succ_of_ne_zero hk0
        exact (hfirst.exits_next hn p j).1 hex
      · cases j with
        | zero => exact hexit
        | succ j => exact fun hex => hbefore j (by omega) ((hfirst.exits_next hn p j).2 hex)

end CompareRun

/-! ## One element -/

namespace CompareRun
variable {reads : Bool} {n : Word} {s t : State}

theorem of_setRep {r : Option RepPrefix} {m : Nat} (h : CompareRun reads n m (s.setRep r) (t.setRep r)) (hrep : t.rep = s.rep) :
    CompareRun reads n m s t where
  si := h.si
  di := h.di
  flags := h.flags
  last hm := (h.last hm).congr rfl
  frame := h.frame.of_setRep hrep

/-- One element from its frame. -/
theorem of_frame (hsi : reg16 .si t = if reads then reg16 .si s + delta n s else reg16 .si s)
    (hdi : reg16 .di t = reg16 .di s + delta n s) (hlast : ComparedFlags n (leftAt reads n s 0) (rightAt n s 0) t)
    {regs : List Reg16} (hregs : regs ⊆ [.cx, .si, .di])
    (hf : Frame { regs := regs, flags := arithFlags, reads := comparedBytes reads n s 0 } s t) :
    CompareRun reads n 1 s t where
  si := by rwa [elementAt_one]
  di := by rwa [elementAt_one]
  flags h := absurd h Nat.one_ne_zero
  last _ := hlast
  frame := by
    have hone : (List.range 1).flatMap (comparedBytes reads n s) = comparedBytes reads n s 0 := by simp
    rw [hone]
    exact hf.mono_regs hregs

end CompareRun

theorem ComparedFlags.byte {a b : Byte} {t : State} (h : SubFlagsAre a b false t) :
    ComparedFlags 1#16 (a.setWidth 16) (b.setWidth 16) t := by simpa [ComparedFlags] using h

theorem ComparedFlags.word {a b : Word} {t : State} (h : SubFlagsAre a b false t) : ComparedFlags 2#16 a b t := h

section
variable (s : State)

theorem leftAt_si_byte : leftAt true 1#16 s 0 = (peek8 (sourceAddr s) s).setWidth 16 := by rw [← srcAt_zero s 1]; rfl
theorem leftAt_si_word : leftAt true 2#16 s 0 = peek16 (sourceAddr s) s := by rw [← srcAt_zero s 2]; rfl
theorem rightAt_byte : rightAt 1#16 s 0 = (peek8 (destAddr s) s).setWidth 16 := by rw [← dstAt_zero s 1]; rfl
theorem rightAt_word : rightAt 2#16 s 0 = peek16 (destAddr s) s := by rw [← dstAt_zero s 2]; rfl

theorem comparedBytes_zero (reads : Bool) (n : Word) : comparedBytes reads n s 0 =
    (if reads then bytesOf n (sourceAddr s) else []) ++ bytesOf n (destAddr s) := by
  rw [comparedBytes, srcAt_zero, dstAt_zero]

end

/-- The rows of the statement: instruction, whether it reads at SI, and the element's size. -/
structure IsCompareRow (i : Instr) (reads : Bool) (n : Word) : Prop where
  size : n = 1 ∨ n = 2
  loop : ∃ elem, LoopElement elem ∧ (∀ s, exec i s = .next (repeated true elem s)) ∧
    ∀ s, s.rep = none → CompareRun reads n 1 s (elem s)

theorem isCompareRow_cmpsb : IsCompareRow .cmpsb true 1#16 := by
  refine ⟨by decide, _, cmpsbElem_loop, fun _ => rfl, fun s hrep => ?_⟩
  obtain ⟨-, -, h, -⟩ := stringElements s hrep
  obtain ⟨hlast, hsi, hdi, hf⟩ := h.element (fun _ => rfl) hrep
  refine .of_frame hsi hdi ?_ (regs := [.si, .di]) (by simp) ?_
  · rw [leftAt_si_byte, rightAt_byte]
    exact .byte hlast
  · rw [comparedBytes_zero]
    exact hf

theorem isCompareRow_cmpsw : IsCompareRow .cmpsw true 2#16 := by
  refine ⟨by decide, _, cmpswElem_loop, fun _ => rfl, fun s hrep => ?_⟩
  obtain ⟨-, -, -, h, -⟩ := stringElements s hrep
  obtain ⟨hlast, hsi, hdi, hf⟩ := h.element (fun _ => rfl) hrep
  refine .of_frame hsi hdi ?_ (regs := [.si, .di]) (by simp) ?_
  · rw [leftAt_si_word, rightAt_word]
    exact .word hlast
  · rw [comparedBytes_zero]
    exact hf

theorem isCompareRow_scasb : IsCompareRow .scasb false 1#16 := by
  refine ⟨by decide, _, scasbElem_loop, fun _ => rfl, fun s hrep => ?_⟩
  obtain ⟨-, -, -, -, h, -⟩ := stringElements s hrep
  obtain ⟨hlast, hdi, hf⟩ := h.element (fun _ => rfl) hrep
  refine .of_frame (hf.regs .si (by simp) nofun) hdi ?_ (regs := [.di]) (by simp) ?_
  · rw [rightAt_byte]
    exact .byte hlast
  · rw [comparedBytes_zero]
    exact hf

theorem isCompareRow_scasw : IsCompareRow .scasw false 2#16 := by
  refine ⟨by decide, _, scaswElem_loop, fun _ => rfl, fun s hrep => ?_⟩
  obtain ⟨-, -, -, -, -, h, -⟩ := stringElements s hrep
  obtain ⟨hlast, hdi, hf⟩ := h.element (fun _ => rfl) hrep
  refine .of_frame (hf.regs .si (by simp) nofun) hdi ?_ (regs := [.di]) (by simp) ?_
  · rw [rightAt_word]
    exact .word hlast
  · rw [comparedBytes_zero]
    exact hf

/-- The loop of a row. -/
theorem IsCompareRow.completes {i : Instr} {reads : Bool} {n : Word} (h : IsCompareRow i reads n) {s : State}
    {p : RepPrefix} (hrep : s.rep = some p) : Completes i s (fun t => ∃ k ≤ (reg16 .cx s).toNat,
      (reg16 .cx t).toNat = (reg16 .cx s).toNat - k ∧ CompareRun reads n k s t ∧
      (k ≠ (reg16 .cx s).toNat → k ≠ 0 ∧ Exits p reads n s (k - 1)) ∧ ∀ j, j + 1 < k → ¬ Exits p reads n s j) := by
  obtain ⟨hn, elem, he, hexec, hone⟩ := h
  refine ⟨_, hexec s, CompareRun.repeated hn he (fun s => ?_) hrep⟩
  have h1 := hone (s.setRep none) rfl
  rw [he.setRep] at h1
  exact h1.of_setRep (he.rep s)

/-- Settles O48, by induction on CX: the first element, then the loop from the state after it. -/
theorem repeatedStringsRunToTheEnd : Obligations.RepeatedStringsRunToTheEnd := by
  intro s p hrep count element src dst bytes stored
  refine ⟨?_, ?_⟩
  · intro x hx
    have hrow : IsRow x.1 x.2.1 x.2.2.1 x.2.2.2 := by
      revert x
      simp only [List.forall_mem_cons, List.not_mem_nil, false_imp_iff, implies_true, and_true]
      exact ⟨isRow_movsb, isRow_movsw, isRow_lodsb, isRow_lodsw, isRow_stosb, isRow_stosw, isRow_insb, isRow_insw,
        isRow_outsb, isRow_outsw⟩
    obtain ⟨t, he, hcx, h⟩ := hrow.completes hrep
    exact ⟨t, he, hcx, h.si, h.di, h.kept.regs, fun hl => h.ax fun hi => absurd hi hl, h.kept.sregs, h.kept.flags, h.kept.ip,
      h.kept.run, h.kept.readonly, h.loaded, h.memory, h.frame, h.planes⟩
  · intro x hx a b exits
    have hrow : IsCompareRow x.1 x.2.1 x.2.2 := by
      revert x
      simp only [List.forall_mem_cons, List.not_mem_nil, false_imp_iff, implies_true, and_true]
      exact ⟨isCompareRow_cmpsb, isCompareRow_cmpsw, isCompareRow_scasb, isCompareRow_scasw⟩
    obtain ⟨t, he, k, hk, hcount, hrun, hstop, hbefore⟩ := hrow.completes hrep
    exact ⟨t, he, k, hk, hcount, hrun.si, hrun.di, hstop, hbefore, hrun.flags, hrun.last, hrun.frame⟩

end Sys2Proof.Machine
end
